-- ==== Sys2Proof/Word.lean ====
section
/-! DEFINITION. The word types of the register space and of a host transaction (00_scope.md R9, 30_encoding.md R70). -/

namespace Sys2Proof

/-- A 32-bit host data word; bit 0 is the least significant bit (R9). -/
abbrev Word := BitVec 32

/-- One byte of the input buffer INBUF (10_state.md R30). -/
abbrev Byte := BitVec 8

/-- A 16-bit word address of the register space (20_memory.md R50). -/
abbrev Addr := BitVec 16

/-- A 12-bit window index ADDR[11:0], unsigned (30_encoding.md R71). -/
abbrev Index := BitVec 12

/-- One host transaction T: RW in bit 48, ADDR in bits 47:32, DATA in bits 31:0 (30_encoding.md R70). -/
abbrev Transaction := BitVec 49

end Sys2Proof
end

