-- ==== Sys2Proof/Syntax.lean ====
section
/-! DEFINITION. The instructions of the core: one constructor per row of the decode table 30_encoding.md R78
(spec/opcode_table.json), in the table's order. A constructor carries every field of its transaction, also those
its rule ignores, so that decoding drops no bit (log 14). -/

namespace Sys2Proof

/-- The RW field of a transaction: 1 = write, 0 = read (R70). -/
inductive Direction where
  | read
  | write
  deriving DecidableEq, Repr

/-- The read-only register a WR_RO_CONFIG write names: ADDR[1:0] = 0 LKUP, 1 CHKSUM, 2 CAP, 3 MAXIN (R78 row 19). -/
inductive ConfigTarget where
  | lkup
  | chksum
  | cap
  | maxin
  deriving DecidableEq, Repr

/-- One transaction, decoded. Of a read, `ignored` is the DATA field, which no rule reads (R70). -/
inductive Instr where
  /-- Row 1, NOP (R190); `v` is CMD.V, ignored. -/
  | nop (v : Byte)
  /-- Row 2, ENCODE (R160); `v` is CMD.V, ignored. -/
  | encode (v : Byte)
  /-- Row 3, LOOKUP (R106); `v` is CMD.V, the symbol value looked up. -/
  | lookup (v : Byte)
  /-- Row 4, CMD_RESERVED (R75); `d` is the command word. -/
  | cmdReserved (d : Word)
  /-- Row 5, RD_CMD (R184). -/
  | rdCmd (ignored : Word)
  /-- Row 6, RD_STATUS (R180). -/
  | rdStatus (ignored : Word)
  /-- Row 7, WR_STATUS (R180). -/
  | wrStatus (d : Word)
  /-- Row 8, RD_BAR_COUNT (R181). -/
  | rdBarCount (ignored : Word)
  /-- Row 9, RD_INLEN (R182). -/
  | rdInlen (ignored : Word)
  /-- Row 10, WR_INLEN (R182). -/
  | wrInlen (d : Word)
  /-- Row 11, RD_LKUP (R187). -/
  | rdLkup (ignored : Word)
  /-- Row 12, RD_CHKSUM (R188). -/
  | rdChksum (ignored : Word)
  /-- Row 13, RD_CAP (R193). -/
  | rdCap (ignored : Word)
  /-- Row 14, RD_MAXIN (R194). -/
  | rdMaxin (ignored : Word)
  /-- Row 15, RD_INBUF (R186); `k` is ADDR[11:0]. -/
  | rdInbuf (k : Index) (ignored : Word)
  /-- Row 16, WR_INBUF (R183); `k` is ADDR[11:0]. -/
  | wrInbuf (k : Index) (d : Word)
  /-- Row 17, RD_BAR (R185); `i` is ADDR[11:0]. -/
  | rdBar (i : Index) (ignored : Word)
  /-- Row 18, WR_RO_BAR_COUNT (R195). -/
  | wrRoBarCount (d : Word)
  /-- Row 19, WR_RO_CONFIG (R196). -/
  | wrRoConfig (target : ConfigTarget) (d : Word)
  /-- Row 20, WR_RO_BAR (R197); `i` is ADDR[11:0]. -/
  | wrRoBar (i : Index) (d : Word)
  /-- Row 21, RESERVED_ACCESS (R189): a read or a write at a reserved address. -/
  | reservedAccess (rw : Direction) (addr : Addr) (d : Word)
  deriving DecidableEq, Repr

end Sys2Proof
end

