-- ==== Sys2Proof/WellFormed.lean ====
section
/-! DEFINITION. Which terms of `Instr` stand for a transaction. Every field is already as wide as the transaction's,
so only the two rows that take "any other" command word or address need a check (30_encoding.md R75, R76). -/

namespace Sys2Proof

/-- A command word that selects no command (R75): OP in 0x3 to 0xF, or any 1 in bits 7:4 or 31:16. -/
def isReservedCommand (d : Word) : Bool :=
  decide (3 ≤ (d.extractLsb' 0 4).toNat) || d.extractLsb' 4 4 != 0#4 || d.extractLsb' 16 16 != 0#16

/-- A reserved address (R76): 0x0008 to 0x0FFF or 0x3000 to 0xFFFF. -/
def isReservedAddr (a : Addr) : Bool :=
  (decide (0x0008 ≤ a.toNat) && decide (a.toNat ≤ 0x0FFF)) || decide (0x3000 ≤ a.toNat)

/-- A term of `Instr` that some transaction decodes to. -/
def Instr.wf : Instr → Bool
  | .cmdReserved d => isReservedCommand d
  | .reservedAccess _ a _ => isReservedAddr a
  | .nop _ | .encode _ | .lookup _ | .rdCmd _ | .rdStatus _ | .wrStatus _ | .rdBarCount _ | .rdInlen _ | .wrInlen _
  | .rdLkup _ | .rdChksum _ | .rdCap _ | .rdMaxin _ | .rdInbuf _ _ | .wrInbuf _ _ | .rdBar _ _ | .wrRoBarCount _
  | .wrRoConfig _ _ | .wrRoBar _ _ => true

end Sys2Proof
end

