-- ==== Sys2Proof/Decode.lean ====
section
/-! DEFINITION. The decoder, total on all 2^49 transactions (30_encoding.md R77, R78), and the encoder written from
the same tables (R70 to R73, R78). The decoder refuses nothing, since the spec gives every transaction a row. -/

namespace Sys2Proof

/-- RW, bit 48 of T (R70): 1 = write, 0 = read. -/
def transactionDirection (t : Transaction) : Direction :=
  if t.getLsbD 48 then .write else .read

/-- ADDR, bits 47:32 of T (R70). -/
def transactionAddr (t : Transaction) : Addr := t.extractLsb' 32 16

/-- DATA, bits 31:0 of T (R70). -/
def transactionData (t : Transaction) : Word := t.extractLsb' 0 32

/-- What an address selects (R71). -/
inductive Region where
  | cmd
  | status
  | barCount
  | inlen
  | config (target : ConfigTarget)
  | inbuf (k : Index)
  | bar (i : Index)
  | reserved
  deriving DecidableEq, Repr

/-- The address decode of R71: a register when ADDR equals its word address (R22); the INBUF window when
ADDR[15:12] = 0x1 and the BAR window when it is 0x2, with index ADDR[11:0]; every other ADDR is reserved. -/
def addressRegion (a : Addr) : Region :=
  if a.extractLsb' 12 4 = 0x1#4 then .inbuf (a.extractLsb' 0 12)
  else if a.extractLsb' 12 4 = 0x2#4 then .bar (a.extractLsb' 0 12)
  else if a = 0x0000#16 then .cmd
  else if a = 0x0001#16 then .status
  else if a = 0x0002#16 then .barCount
  else if a = 0x0003#16 then .inlen
  else if a = 0x0004#16 then .config .lkup
  else if a = 0x0005#16 then .config .chksum
  else if a = 0x0006#16 then .config .cap
  else if a = 0x0007#16 then .config .maxin
  else .reserved

/-- CMD.V, bits 15:8 of a command word (R72). -/
def commandOperand (d : Word) : Byte := d.extractLsb' 8 8

/-- Rows 1 to 4 of R78: the command a CMD write selects, V being left out of the comparison. -/
def decodeCommand (d : Word) : Instr :=
  if d &&& 0xFFFF00FF#32 = 0x00000000#32 then .nop (commandOperand d)
  else if d &&& 0xFFFF00FF#32 = 0x00000001#32 then .encode (commandOperand d)
  else if d &&& 0xFFFF00FF#32 = 0x00000002#32 then .lookup (commandOperand d)
  else .cmdReserved d

/-- The read of one of the registers LKUP, CHKSUM, CAP, MAXIN (R78 rows 11 to 14). -/
def decodeConfigRead (target : ConfigTarget) (d : Word) : Instr :=
  match target with
  | .lkup => .rdLkup d
  | .chksum => .rdChksum d
  | .cap => .rdCap d
  | .maxin => .rdMaxin d

/-- The decoder (R78): every transaction has exactly one row. -/
def decode (t : Transaction) : Instr :=
  match transactionDirection t, addressRegion (transactionAddr t) with
  | .write, .cmd => decodeCommand (transactionData t)
  | .read, .cmd => .rdCmd (transactionData t)
  | .read, .status => .rdStatus (transactionData t)
  | .write, .status => .wrStatus (transactionData t)
  | .read, .barCount => .rdBarCount (transactionData t)
  | .write, .barCount => .wrRoBarCount (transactionData t)
  | .read, .inlen => .rdInlen (transactionData t)
  | .write, .inlen => .wrInlen (transactionData t)
  | .read, .config target => decodeConfigRead target (transactionData t)
  | .write, .config target => .wrRoConfig target (transactionData t)
  | .read, .inbuf k => .rdInbuf k (transactionData t)
  | .write, .inbuf k => .wrInbuf k (transactionData t)
  | .read, .bar i => .rdBar i (transactionData t)
  | .write, .bar i => .wrRoBar i (transactionData t)
  | rw, .reserved => .reservedAccess rw (transactionAddr t) (transactionData t)

/-- The RW bit of a direction (R70). -/
def directionBit : Direction → Bool
  | .read => false
  | .write => true

/-- The transaction { RW, ADDR, DATA } (R70). -/
def transaction (rw : Direction) (a : Addr) (d : Word) : Transaction :=
  (BitVec.ofBool (directionBit rw)).setWidth 49 <<< 48 ||| a.setWidth 49 <<< 32 ||| d.setWidth 49

/-- The command word { 0, V, 0, OP } of R72. -/
def commandWord (op : BitVec 4) (v : Byte) : Word :=
  v.setWidth 32 <<< 8 ||| op.setWidth 32

/-- The address of INBUF cell `k` or of BAR cell `i`: the window's number in ADDR[15:12], the index below (R71). -/
def windowAddr (window : BitVec 4) (k : Index) : Addr :=
  window.setWidth 16 <<< 12 ||| k.setWidth 16

/-- The word address of a read-only register (R22). -/
def configAddr : ConfigTarget → Addr
  | .lkup => 0x0004#16
  | .chksum => 0x0005#16
  | .cap => 0x0006#16
  | .maxin => 0x0007#16

/-- The encoder: the transaction of a well-formed instruction, from the rows of R78. -/
def encodeInstr : Instr → Transaction
  | .nop v => transaction .write 0x0000#16 (commandWord 0x0#4 v)
  | .encode v => transaction .write 0x0000#16 (commandWord 0x1#4 v)
  | .lookup v => transaction .write 0x0000#16 (commandWord 0x2#4 v)
  | .cmdReserved d => transaction .write 0x0000#16 d
  | .rdCmd d => transaction .read 0x0000#16 d
  | .rdStatus d => transaction .read 0x0001#16 d
  | .wrStatus d => transaction .write 0x0001#16 d
  | .rdBarCount d => transaction .read 0x0002#16 d
  | .rdInlen d => transaction .read 0x0003#16 d
  | .wrInlen d => transaction .write 0x0003#16 d
  | .rdLkup d => transaction .read (configAddr .lkup) d
  | .rdChksum d => transaction .read (configAddr .chksum) d
  | .rdCap d => transaction .read (configAddr .cap) d
  | .rdMaxin d => transaction .read (configAddr .maxin) d
  | .rdInbuf k d => transaction .read (windowAddr 0x1#4 k) d
  | .wrInbuf k d => transaction .write (windowAddr 0x1#4 k) d
  | .rdBar i d => transaction .read (windowAddr 0x2#4 i) d
  | .wrRoBarCount d => transaction .write 0x0002#16 d
  | .wrRoConfig target d => transaction .write (configAddr target) d
  | .wrRoBar i d => transaction .write (windowAddr 0x2#4 i) d
  | .reservedAccess rw a d => transaction rw a d

/-- The transaction whose bits are `w`, of which the table gives `nbits`: every bit above them is 0 (log 16). -/
def tableTransaction (nbits w : Nat) : Transaction := BitVec.ofNat 49 (w % 2 ^ nbits)

/-- What the decoder reads from a word of the opcode table, whose bit 0 is bit 0 of T. A transaction has 49 bits
(R70), so a word with a bit above bit 48 is none (log 16). -/
def decodeTableWord (nbits w : Nat) : Option Instr :=
  if w % 2 ^ nbits < 2 ^ 49 then some (decode (tableTransaction nbits w)) else none

/-- One row of the decode table as a mask and a match over T (spec/opcode_table.json, R78). -/
structure OpcodeRow where
  number : Nat
  matchBits : Transaction
  maskBits : Transaction
  deriving DecidableEq, Repr

/-- The rows of R78 in their order, as spec/opcode_table.json gives them. The decoder above does not read this
table; a claim compares the two. -/
def opcodeTable : List OpcodeRow :=
  [ ⟨1, 0x1000000000000#49, 0x1FFFFFFFF00FF#49⟩, ⟨2, 0x1000000000001#49, 0x1FFFFFFFF00FF#49⟩,
    ⟨3, 0x1000000000002#49, 0x1FFFFFFFF00FF#49⟩, ⟨4, 0x1000000000000#49, 0x1FFFF00000000#49⟩,
    ⟨5, 0x0000000000000#49, 0x1FFFF00000000#49⟩, ⟨6, 0x0000100000000#49, 0x1FFFF00000000#49⟩,
    ⟨7, 0x1000100000000#49, 0x1FFFF00000000#49⟩ ] ++
  [ ⟨8, 0x0000200000000#49, 0x1FFFF00000000#49⟩, ⟨9, 0x0000300000000#49, 0x1FFFF00000000#49⟩,
    ⟨10, 0x1000300000000#49, 0x1FFFF00000000#49⟩, ⟨11, 0x0000400000000#49, 0x1FFFF00000000#49⟩,
    ⟨12, 0x0000500000000#49, 0x1FFFF00000000#49⟩, ⟨13, 0x0000600000000#49, 0x1FFFF00000000#49⟩,
    ⟨14, 0x0000700000000#49, 0x1FFFF00000000#49⟩ ] ++
  [ ⟨15, 0x0100000000000#49, 0x1F00000000000#49⟩, ⟨16, 0x1100000000000#49, 0x1F00000000000#49⟩,
    ⟨17, 0x0200000000000#49, 0x1F00000000000#49⟩, ⟨18, 0x1000200000000#49, 0x1FFFF00000000#49⟩,
    ⟨19, 0x1000400000000#49, 0x1FFFC00000000#49⟩, ⟨20, 0x1200000000000#49, 0x1F00000000000#49⟩,
    ⟨21, 0x0000000000000#49, 0x0000000000000#49⟩ ]

/-- A row matches T when T and the row's match agree on the row's mask. -/
def OpcodeRow.matches (r : OpcodeRow) (t : Transaction) : Bool := t &&& r.maskBits == r.matchBits

/-- The number of the first row of the table that matches T ("the first match wins", R78). -/
def firstMatchingRow (t : Transaction) : Option Nat :=
  (opcodeTable.find? (fun r => r.matches t)).map OpcodeRow.number

/-- The row of R78 an instruction belongs to. -/
def Instr.row : Instr → Nat
  | .nop _ => 1
  | .encode _ => 2
  | .lookup _ => 3
  | .cmdReserved _ => 4
  | .rdCmd _ => 5
  | .rdStatus _ => 6
  | .wrStatus _ => 7
  | .rdBarCount _ => 8
  | .rdInlen _ => 9
  | .wrInlen _ => 10
  | .rdLkup _ => 11
  | .rdChksum _ => 12
  | .rdCap _ => 13
  | .rdMaxin _ => 14
  | .rdInbuf _ _ => 15
  | .wrInbuf _ _ => 16
  | .rdBar _ _ => 17
  | .wrRoBarCount _ => 18
  | .wrRoConfig _ _ => 19
  | .wrRoBar _ _ => 20
  | .reservedAccess _ _ _ => 21

end Sys2Proof
end

