-- ==== Sys2Proof/Config.lean ====
section
/-! DEFINITION. What an instance of the core fixes (00_scope.md R7) and the values the spec leaves open, as constants with no body. -/

namespace Sys2Proof

/-- The two parameters fixed when an instance is built (R7): CAPACITY, the number of bit cells of the BarStore,
and MAX_INPUT_LEN, the number of byte cells of INBUF. -/
structure Params where
  capacity : Nat
  maxInputLen : Nat
  deriving DecidableEq, Repr

/-- The legal values of R7: 1 ≤ CAPACITY ≤ 4096 and 16 ≤ MAX_INPUT_LEN ≤ 4096. -/
abbrev Params.Legal (p : Params) : Prop :=
  1 ≤ p.capacity ∧ p.capacity ≤ 4096 ∧ 16 ≤ p.maxInputLen ∧ p.maxInputLen ≤ 4096

/-- FREE VALUE (log 5): the byte that INBUF cell `cell`, not written since the `resets`-th reset, is read as.
"INBUF and BAR contents after reset are unspecified" (70_reset_and_hazards.md R241); "A cell not written since reset
returns an unspecified byte" (44_host_access.md R186). It is one byte per cell and reset, so that two reads with no
write between them agree (20_memory.md R58). DESIGN CHOICE, safe: nothing constrains it. -/
opaque Config.unwrittenInbufByte (resets cell : Nat) : Byte

/-- FREE VALUE (log 7): the bit of a BAR cell that holds no value since the `resets`-th reset ("unset/undefined",
10_state.md R36). A state that keeps the invariant never reads it. DESIGN CHOICE, safe: nothing constrains it. -/
opaque Config.unwrittenBarBit (resets cell : Nat) : Bool

end Sys2Proof
end

