-- ==== Sys2Proof/Machine/Instance.lean ====
section
/-! DEFINITION. The instance of the core that State.reset is (log 4). The spec leaves CAPACITY and MAX_INPUT_LEN OPEN
(00_scope.md R7); every claim is stated for any legal pair, none for these numbers. -/

namespace Sys2Proof.Machine

/-- DESIGN CHOICE, unsafe (log 4): the CAPACITY that the spec's own vectors and programs use (95_test_vectors.md L2.5).
The spec states no value: "integer, 1 ≤ CAPACITY ≤ 4096; no value given by the source, OPEN" (R7). -/
def instanceCapacity : Nat := 168

/-- DESIGN CHOICE, unsafe (log 4): the MAX_INPUT_LEN that the spec's own vectors and programs use (95_test_vectors.md
L2.5). The spec states no value: "integer, 16 ≤ MAX_INPUT_LEN ≤ 4096; OPEN" (R7). -/
def instanceMaxInputLen : Nat := 16

/-- The parameters of State.reset. -/
def instanceParams : Params := ⟨instanceCapacity, instanceMaxInputLen⟩

end Sys2Proof.Machine
end

