-- ==== Sys2Proof/Machine/State.lean ====
section
/-! DEFINITION. The state of the core as plain data: every register, flag and storage array of 10_state.md, the host
port, and the reasons a step can stop. -/

namespace Sys2Proof.Machine

/-- The codes of STATUS.RESULT (R24). Codes 5 to 7 are "never written", so they have no constructor. -/
inductive Result where
  /-- 0, NONE: set by reset only. -/
  | none
  /-- 1, OK: valid input whose stream fits in CAPACITY. -/
  | ok
  /-- 2, TRUNCATED: valid input whose stream is longer than CAPACITY. -/
  | truncated
  /-- 3, INVALID_INPUT: odd length or a non-digit byte. -/
  | invalidInput
  /-- 4, INPUT_OVERRUN: INLEN > MAX_INPUT_LEN. -/
  | inputOverrun
  deriving DecidableEq, Repr

/-- The conditions a transaction records in a sticky bit of STATUS (R23, R211). -/
inductive Condition where
  /-- STATUS.BADCMD, bit 8. -/
  | badCmd
  /-- STATUS.RANGE, bit 9. -/
  | range
  /-- STATUS.ACCERR, bit 10. -/
  | accErr
  deriving DecidableEq, Repr

/-- The fields of STATUS that are stored (R23); every other bit reads 0. -/
structure Status where
  accErr : Bool
  range  : Bool
  badCmd : Bool
  result : Result
  deriving DecidableEq, Repr

/-- What the host can do to the core: issue a transaction (R14, R70) or assert the reset input (R240), between
transactions or while one is served (R242). -/
inductive HostEvent where
  /-- The host issues the transaction `t`. -/
  | transaction (t : Transaction)
  /-- Reset asserted while no transaction is served (R240). -/
  | reset
  /-- Reset asserted while the transaction `t` is being served: it cancels `t` (R242). -/
  | resetDuring (t : Transaction)
  deriving DecidableEq, Repr

/-- The cells of INBUF written since reset: (index, byte) pairs, indices strictly rising. An index that is not listed
holds no value (R241). -/
abbrev Memory := List Host.Cell

structure State where
  /-- CAPACITY and MAX_INPUT_LEN, read in CAP and MAXIN (R29). -/
  params    : Params
  /-- STATUS (R23). -/
  status    : Status
  /-- LENGTH, bits 12:0 of BAR_COUNT (R25). -/
  barLength : BitVec 13
  /-- INLEN (R26). -/
  inlen     : BitVec 16
  /-- LKUP (R27). -/
  lkup      : Word
  /-- CHKSUM (R28). -/
  chksum    : Word
  /-- The INBUF cells that hold a value (R30, R241). -/
  inbuf     : Memory
  /-- The BAR cells that hold a value, BAR[0] first, true = bar (R12, R31); cells past the list's end hold none
  (R36, log 7). -/
  bar       : List Bool
  /-- The model's own: how many times reset has been asserted since `State.reset` (log 6). -/
  resets    : Nat
  /-- The host port's input, the model's own: events issued and not yet served, oldest first (log 1). -/
  pending   : List HostEvent
  /-- The host port's output, the model's own: the word the last served transaction returned, none for a write
  (R70, log 2). -/
  returned  : Option Word
  deriving DecidableEq, Repr

/-- The faults of the core: none. "no condition stops the core, transfers control, or refuses a transaction"
(60_exceptions.md R210), and "every transaction completes" (70_reset_and_hazards.md R248). Nobody raises a fault, so
this type has no constructor (log 19). -/
inductive Fault where
  deriving DecidableEq, Repr

/-- The refusals of the core. -/
inductive Refusal where
  /-- Raised by an arm of exec whose instruction has no meaning yet; safe, since the machine then stops. No arm
  raises it: every row of the opcode table has its meaning. -/
  | notModelled (mnemonic : String)
  deriving DecidableEq, Repr

/-- The reset state of R240 of an instance with parameters `p`: STATUS, LENGTH, INLEN, LKUP and CHKSUM are 0, and no
cell of INBUF or BAR holds a value (R241). The model's own fields: no event issued, no word returned, no reset asserted
since (DESIGN CHOICE, log 1, log 2, log 6). -/
def State.resetFor (p : Params) : State where
  params := p
  status := ⟨false, false, false, .none⟩
  barLength := 0#13
  inlen := 0#16
  lkup := 0#32
  chksum := 0#32
  inbuf := []
  bar := []
  resets := 0
  pending := []
  returned := Option.none

/-- The machine right after reset, for the instance of Machine/Instance.lean (log 4). -/
def State.reset : State := State.resetFor instanceParams

end Sys2Proof.Machine
end

