-- ==== Sys2Proof/Machine/Ops.lean ====
section
/-! DEFINITION. The named operations over the state: one per register or array, the cells of INBUF and BAR, recording
a condition, the reset input, and the host port. -/

namespace Sys2Proof.Machine

/-! Registers: every write of a field goes through one of these. -/

def State.setStatus (st : Status) (s : State) : State := { s with status := st }

/-- STATUS.RESULT <- code, written by ENCODE only (R23). -/
def State.setResult (r : Result) (s : State) : State := { s with status := { s.status with result := r } }

def State.setInlen (n : BitVec 16) (s : State) : State := { s with inlen := n }

def State.setLkup (w : Word) (s : State) : State := { s with lkup := w }

def State.setChksum (w : Word) (s : State) : State := { s with chksum := w }

/-- The BarStore rebuilt: the cells that hold a value, and LENGTH (R31). -/
def State.setBarStore (cells : List Bool) (len : BitVec 13) (s : State) : State :=
  { s with bar := cells, barLength := len }

def State.setInbuf (m : Memory) (s : State) : State := { s with inbuf := m }

def State.setReturned (r : Option Word) (s : State) : State := { s with returned := r }

def State.setPending (es : List HostEvent) (s : State) : State := { s with pending := es }

/-! INBUF as a list of cells in one canonical form. -/

/-- The canonical form: indices strictly rising. An unlisted index holds no value, so no entry can equal it. -/
abbrev Memory.wf (m : Memory) : Prop := m.Pairwise (fun c c' => c.1 < c'.1)

/-- The byte a cell holds, or none when it has not been written since reset. -/
def Memory.read : Memory → Nat → Option Byte
  | [], _ => none
  | (a', b') :: m, a => if a = a' then some b' else Memory.read m a

/-- Write one cell, keeping the canonical form. -/
def Memory.write : Memory → Nat → Byte → Memory
  | [], a, b => [(a, b)]
  | (a', b') :: m, a, b =>
    if a < a' then (a, b) :: (a', b') :: m
    else if a = a' then (a, b) :: m
    else (a', b') :: Memory.write m a b

/-- What INBUF cell `k` holds: a byte, or no value ("a model must treat an INBUF cell not written since reset as
holding no value", R241). -/
def State.inbufCell (s : State) (k : Nat) : Option Byte := Memory.read s.inbuf k

/-- INBUF[k] as a read or an ENCODE sees it: the byte it holds, else the free byte of an unwritten cell (R186 "returns
an unspecified byte"; log 5). -/
def State.inbufByte (s : State) (k : Nat) : Byte :=
  (s.inbufCell k).getD (Config.unwrittenInbufByte s.resets k)

/-- INBUF[k] <- b. -/
def State.writeInbuf (k : Nat) (b : Byte) (s : State) : State := s.setInbuf (Memory.write s.inbuf k b)

/-- What BAR cell `i` holds: a bar or space, or no value. -/
def State.barCell (s : State) (i : Nat) : Option Bool := s.bar[i]?

/-- BAR[i] as a window read sees it: the bit it holds, else the free bit of a cell without a value (log 7). -/
def State.barBit (s : State) (i : Nat) : Bool := (s.barCell i).getD (Config.unwrittenBarBit s.resets i)

/-! Recording a condition. The core has no trap entry and no trap return (R216, R217): `raise` writes one sticky bit
and nothing else (R210), and software clears it. -/

/-- `raise <Condition>`: set the condition's sticky bit (R11, R210). -/
def Status.raise (c : Condition) (st : Status) : Status :=
  match c with
  | .badCmd => { st with badCmd := true }
  | .range => { st with range := true }
  | .accErr => { st with accErr := true }

/-- Record the condition `c` in STATUS. -/
def State.raise (c : Condition) (s : State) : State := s.setStatus (s.status.raise c)

/-! The reset input. -/

/-- Assert the reset input: the registers take the values of R240; INBUF and BAR hold no value (R241); the parameters
stay (R32); nothing is returned to the host (R242). Events the host has issued and the core has not taken stay
(log 9). -/
def State.assertReset (s : State) : State :=
  { State.resetFor s.params with resets := s.resets + 1, pending := s.pending }

/-! The host port. -/

/-- The oldest event issued, with the state it is served in: the event is off the queue (R58 "in issue order"). -/
def State.takeEvent (s : State) : Option (HostEvent × State) :=
  match s.pending with
  | [] => none
  | e :: es => some (e, s.setPending es)

/-- The host issues a transaction ahead of every event still waiting. -/
def State.issueFirst (t : Transaction) (s : State) : State := s.setPending (.transaction t :: s.pending)

/-- A read completes: the word goes back to the host (R70). -/
def State.respond (w : Word) (s : State) : Host.Outcome State Fault Refusal := .next (s.setReturned (some w))

/-- A write completes: it "returns nothing" (R70). -/
def State.acknowledge (s : State) : Host.Outcome State Fault Refusal := .next (s.setReturned none)

end Sys2Proof.Machine
end

