-- ==== Sys2Proof/Machine/AccessErrors.lean ====
section
/-! DEFINITION. Accesses that set ACCERR: writes to read-only registers and to the BAR window, and reserved addresses
(44_host_access.md R189, R195, R196, R197). -/

namespace Sys2Proof.Machine

/-- WR_RO_BAR_COUNT (R195): ACCERR <- 1; LENGTH is not changed. -/
def execWrRoBarCount (s : State) : Host.Outcome State Fault Refusal := (s.raise .accErr).acknowledge

/-- WR_RO_CONFIG (R196): ACCERR <- 1; the target (LKUP, CHKSUM, CAP or MAXIN) is not changed. -/
def execWrRoConfig (s : State) : Host.Outcome State Fault Refusal := (s.raise .accErr).acknowledge

/-- WR_RO_BAR (R197): ACCERR <- 1 whatever the index; no BAR cell is changed. -/
def execWrRoBar (s : State) : Host.Outcome State Fault Refusal := (s.raise .accErr).acknowledge

/-- RESERVED_ACCESS (R189): ACCERR <- 1; a read returns 0, a write changes nothing else. -/
def execReservedAccess (rw : Direction) (s : State) : Host.Outcome State Fault Refusal :=
  match rw with
  | .read => (s.raise .accErr).respond 0#32
  | .write => (s.raise .accErr).acknowledge

end Sys2Proof.Machine
end

