-- ==== Sys2Proof/Machine/Operands.lean ====
section
/-! DEFINITION. The operands of the transactions (30_encoding.md R74) and the range checks of the two windows. No
operand is sign-extended or scaled. -/

namespace Sys2Proof.Machine

/-- The LOOKUP operand v = zext(CMD.V), 0 to 255 (R74). -/
def lookupOperand (v : Byte) : Nat := v.toNat

/-- The INLEN write operand, DATA[15:0] (R74, R182). -/
def inlenOperand (d : Word) : BitVec 16 := d.extractLsb' 0 16

/-- The INBUF write operand, DATA[7:0] (R74, R183). -/
def inbufOperand (d : Word) : Byte := d.extractLsb' 0 8

/-- The bit of a STATUS write that clears a sticky bit: 8 BADCMD, 9 RANGE, 10 ACCERR (R23, R180). -/
def conditionBit : Condition → Nat
  | .badCmd => 8
  | .range => 9
  | .accErr => 10

/-- Whether a STATUS write with data `d` clears the condition (the clear mask DATA[10:8], R74, R180). -/
def clears (d : Word) (c : Condition) : Bool := d.getLsbD (conditionBit c)

/-- A window index is a 12-bit unsigned number (R71). -/
def windowIndex (k : Index) : Nat := k.toNat

/-- INBUF index k is in range: k < MAX_INPUT_LEN (R183, R186). -/
def inbufInRange (s : State) (k : Index) : Bool := decide (windowIndex k < s.params.maxInputLen)

/-- BAR index i is in range: i < LENGTH (R185). -/
def barInRange (s : State) (i : Index) : Bool := decide (windowIndex i < s.barLength.toNat)

/-- zext_32 of a bit (R9). -/
def bitWord (b : Bool) : Word := (BitVec.ofBool b).setWidth 32

/-- zext_32 of a byte (R9). -/
def byteWord (b : Byte) : Word := b.setWidth 32

/-- zext_32 of a number (R9). -/
def numberWord (n : Nat) : Word := BitVec.ofNat 32 n

end Sys2Proof.Machine
end

