-- ==== Sys2Proof/Machine/Commands.lean ====
section
/-! DEFINITION. The CMD writes other than ENCODE: NOP (44_host_access.md R190), LOOKUP (40_symbol_lookup.md R106) and the
reserved commands (30_encoding.md R75). -/

namespace Sys2Proof.Machine

/-- NOP (R190): no state changes. -/
def execNop (s : State) : Host.Outcome State Fault Refusal := s.acknowledge

/-- LOOKUP (R106): LKUP <- the packed weights of symbol value v; a miss leaves LKUP 0 and sets no STATUS bit. -/
def execLookup (v : Byte) (s : State) : Host.Outcome State Fault Refusal :=
  (s.setLkup (lkupWord (lookup (lookupOperand v)))).acknowledge

/-- CMD_RESERVED (R75): no effect except STATUS.BADCMD <- 1. -/
def execCmdReserved (s : State) : Host.Outcome State Fault Refusal := (s.raise .badCmd).acknowledge

end Sys2Proof.Machine
end

