-- ==== Sys2Proof/Machine/BarPacker.lean ====
section
/-! DEFINITION. The run-length bit-packer (41_bar_packer.md): AppendSymbol, driven only by ENCODE. Its values are
hidden and live inside one ENCODE (10_state.md R35), so they are no part of State (log 10). -/

namespace Sys2Proof.Machine

/-- The packer while ENCODE runs: the cells BAR[0..WP) written so far, WP, TOT and POL (R35; true = bar). -/
structure Packer where
  cells : List Bool
  wp    : Nat
  tot   : Nat
  pol   : Bool
  deriving DecidableEq, Repr

/-- WP <- 0, TOT <- 0, POL <- 1 (R121). -/
def packerInit : Packer := ⟨[], 0, 0, true⟩

/-- One module of a run (R122): if WP < CAPACITY then BAR[WP] <- POL and WP advances, else the bit is dropped; TOT
advances in both cases. -/
def packModule (capacity : Nat) (p : Packer) : Packer :=
  if p.wp < capacity then { p with cells := p.cells ++ [p.pol], wp := p.wp + 1, tot := p.tot + 1 }
  else { p with tot := p.tot + 1 }

/-- "repeat w[k] times" (R122). -/
def packRun (capacity : Nat) : Nat → Packer → Packer
  | 0, p => p
  | n + 1, p => packRun capacity n (packModule capacity p)

/-- POL <- not POL (R122). -/
def flipPolarity (p : Packer) : Packer := { p with pol := !p.pol }

/-- AppendSymbol (R122): each run of `w` in order, the polarity flipped after each; it is never reset (R123). -/
def appendSymbol (capacity : Nat) : List Nat → Packer → Packer
  | [], p => p
  | n :: w, p => appendSymbol capacity w (flipPolarity (packRun capacity n p))

/-- Expand (R120): the bits of one weight sequence from a starting polarity; run k has the starting polarity when k is
even. A claim compares AppendSymbol with it. -/
def expand : List Nat → Bool → List Bool
  | [], _ => []
  | n :: w, p => List.replicate n p ++ expand w (!p)

end Sys2Proof.Machine
end

