-- ==== Sys2Proof/Machine/Checksum.lean ====
section
/-! DEFINITION. The checksum engine (42_checksum.md), driven only by ENCODE. Its arithmetic is exact (R144), so it is
over Nat. -/

namespace Sys2Proof.Machine

/-- ChecksumInit: ACC <- 105 (R140). -/
def checksumInit : Nat := 105

/-- ChecksumStep(i, v): ACC <- (ACC + i * v) mod 103 (R141). -/
def checksumStep (i v acc : Nat) : Nat := (acc + i * v) % 103

/-- ChecksumFinal: chk = ACC mod 103 (R142). -/
def checksumFinal (acc : Nat) : Nat := acc % 103

end Sys2Proof.Machine
end

