-- ==== Sys2Proof/Machine/Flags.lean ====
section
/-! DEFINITION. STATUS, the core's only flags (10_state.md R34): its word as a read sees it, and clearing sticky bits. -/

namespace Sys2Proof.Machine

/-- The code of STATUS.RESULT (R24). -/
def resultCode : Result → BitVec 3
  | .none => 0#3
  | .ok => 1#3
  | .truncated => 2#3
  | .invalidInput => 3#3
  | .inputOverrun => 4#3

/-- The STATUS word of R180: RESULT in bits 2:0, BADCMD in bit 8, RANGE in bit 9, ACCERR in bit 10, every other bit 0. -/
def statusWord (st : Status) : Word :=
  bitWord st.accErr <<< 10 ||| bitWord st.range <<< 9 ||| bitWord st.badCmd <<< 8 ||| (resultCode st.result).setWidth 32

/-- The sticky bit that records a condition. -/
def Status.sticky (st : Status) : Condition → Bool
  | .badCmd => st.badCmd
  | .range => st.range
  | .accErr => st.accErr

/-- A STATUS write with data `d`: each sticky bit with a 1 in its place is cleared, RESULT stays (R180). -/
def clearSticky (d : Word) (st : Status) : Status where
  accErr := st.accErr && !clears d .accErr
  range := st.range && !clears d .range
  badCmd := st.badCmd && !clears d .badCmd
  result := st.result

end Sys2Proof.Machine
end

