-- ==== Sys2Proof/Machine/Encode.lean ====
section
/-! DEFINITION. The encode sequencer and the ENCODE command (43_encode.md). The whole command is one step (R168). -/

namespace Sys2Proof.Machine

/-- IsDigit: 0x30 ≤ b ≤ 0x39 (R162). -/
def isDigit (b : Byte) : Bool := decide (0x30 ≤ b.toNat) && decide (b.toNat ≤ 0x39)

/-- PairValue(a, b) = 10·(a − 0x30) + (b − 0x30), for digits a and b (R164). -/
def pairValue (a b : Byte) : Nat := 10 * (a.toNat - 0x30) + (b.toNat - 0x30)

/-- INLEN > MAX_INPUT_LEN (R161). -/
def inputOverrun (s : State) : Bool := decide (s.params.maxInputLen < s.inlen.toNat)

/-- The input is valid (R162): INLEN is even and INBUF[0..INLEN) holds digits only. -/
def inputValid (s : State) : Bool :=
  s.inlen.toNat % 2 == 0 && (List.range s.inlen.toNat).all (fun k => isDigit (s.inbufByte k))

/-- The packer and the checksum accumulator while the sequencer runs (R35). -/
structure Sequencer where
  packer : Packer
  acc    : Nat
  deriving DecidableEq, Repr

/-- The sequencer's loop over digit pairs (R163): `m` pairs are left and `i` is the position of the next data symbol. -/
def encodePairs (s : State) : Nat → Nat → Sequencer → Sequencer
  | 0, _, q => q
  | m + 1, i, q =>
    encodePairs s m (i + 1)
      { packer := appendSymbol s.params.capacity
          (lookup (pairValue (s.inbufByte (2 * i - 2)) (s.inbufByte (2 * i - 1)))) q.packer
        acc := checksumStep i (pairValue (s.inbufByte (2 * i - 2)) (s.inbufByte (2 * i - 1))) q.acc }

/-- START-C, the data symbols, the checksum symbol and STOP, each through AppendSymbol; the packer at the end and the
checksum symbol value (R160, R163). -/
def encodeSymbols (s : State) : Packer × Nat :=
  let start : Sequencer := ⟨appendSymbol s.params.capacity (lookup 105) packerInit, checksumInit⟩
  let q := encodePairs s (s.inlen.toNat / 2) 1 start
  let chk := checksumFinal q.acc
  (appendSymbol s.params.capacity (lookup 106) (appendSymbol s.params.capacity (lookup chk) q.packer), chk)

/-- The commit of a valid ENCODE (R160, R165, R166): LENGTH <- WP; RESULT is TRUNCATED when TOT > CAPACITY, else OK;
CHKSUM <- 0x80000000 | chk. BAR holds what the packer wrote and no older cell (log 7). -/
def commitEncode (p : Packer) (chk : Nat) (s : State) : State :=
  ((s.setBarStore p.cells (BitVec.ofNat 13 p.wp)).setResult
    (if s.params.capacity < p.tot then .truncated else .ok)).setChksum (0x80000000#32 ||| numberWord chk)

/-- Fail(code) (R160, R167): LENGTH <- 0, RESULT <- code, CHKSUM <- 0. No BAR cell holds a value afterwards (log 7). -/
def failEncode (code : Result) (s : State) : State :=
  ((s.setBarStore [] 0#13).setResult code).setChksum 0#32

/-- What ENCODE leaves (R160), in the priority of R214. -/
def encodeEffect (s : State) : State :=
  if inputOverrun s then failEncode .inputOverrun s
  else if !inputValid s then failEncode .invalidInput s
  else commitEncode (encodeSymbols s).1 (encodeSymbols s).2 s

/-- ENCODE (R160). -/
def execEncode (s : State) : Host.Outcome State Fault Refusal := (encodeEffect s).acknowledge

end Sys2Proof.Machine
end

