-- ==== Sys2Proof/Machine/Registers.lean ====
section
/-! DEFINITION. Reads and writes of the registers 0x0000 to 0x0007 that the host may make (44_host_access.md R180, R181,
R182, R184, R187, R188, R193, R194). -/

namespace Sys2Proof.Machine

/-- RD_CMD (R184): returns 0; a read never starts a command. -/
def execRdCmd (s : State) : Host.Outcome State Fault Refusal := s.respond 0#32

/-- RD_STATUS (R180). -/
def execRdStatus (s : State) : Host.Outcome State Fault Refusal := s.respond (statusWord s.status)

/-- WR_STATUS (R180): clears the sticky bits named in d[10:8]. -/
def execWrStatus (d : Word) (s : State) : Host.Outcome State Fault Refusal :=
  (s.setStatus (clearSticky d s.status)).acknowledge

/-- RD_BAR_COUNT (R181): returns zext_32(LENGTH). -/
def execRdBarCount (s : State) : Host.Outcome State Fault Refusal := s.respond (s.barLength.setWidth 32)

/-- RD_INLEN (R182): returns zext_32(INLEN). -/
def execRdInlen (s : State) : Host.Outcome State Fault Refusal := s.respond (s.inlen.setWidth 32)

/-- WR_INLEN (R182): INLEN <- d[15:0]. -/
def execWrInlen (d : Word) (s : State) : Host.Outcome State Fault Refusal :=
  (s.setInlen (inlenOperand d)).acknowledge

/-- RD_LKUP (R187): returns LKUP. -/
def execRdLkup (s : State) : Host.Outcome State Fault Refusal := s.respond s.lkup

/-- RD_CHKSUM (R188): returns CHKSUM. -/
def execRdChksum (s : State) : Host.Outcome State Fault Refusal := s.respond s.chksum

/-- RD_CAP (R193): returns zext_32(CAPACITY). -/
def execRdCap (s : State) : Host.Outcome State Fault Refusal := s.respond (numberWord s.params.capacity)

/-- RD_MAXIN (R194): returns zext_32(MAX_INPUT_LEN). -/
def execRdMaxin (s : State) : Host.Outcome State Fault Refusal := s.respond (numberWord s.params.maxInputLen)

end Sys2Proof.Machine
end

