-- ==== Sys2Proof/Machine/Windows.lean ====
section
/-! DEFINITION. The INBUF and BAR windows (44_host_access.md R183, R185, R186). An index outside the valid range sets
RANGE. -/

namespace Sys2Proof.Machine

/-- RD_INBUF (R186): INBUF[k] for k < MAX_INPUT_LEN, else RANGE and 0. -/
def execRdInbuf (k : Index) (s : State) : Host.Outcome State Fault Refusal :=
  if inbufInRange s k then s.respond (byteWord (s.inbufByte (windowIndex k))) else (s.raise .range).respond 0#32

/-- WR_INBUF (R183): INBUF[k] <- d[7:0] for k < MAX_INPUT_LEN, else RANGE and nothing stored. -/
def execWrInbuf (k : Index) (d : Word) (s : State) : Host.Outcome State Fault Refusal :=
  if inbufInRange s k then (s.writeInbuf (windowIndex k) (inbufOperand d)).acknowledge
  else (s.raise .range).acknowledge

/-- RD_BAR (R185): BAR[i] for i < LENGTH, else RANGE and 0. -/
def execRdBar (i : Index) (s : State) : Host.Outcome State Fault Refusal :=
  if barInRange s i then s.respond (bitWord (s.barBit (windowIndex i))) else (s.raise .range).respond 0#32

end Sys2Proof.Machine
end

