-- ==== Sys2Proof/Machine/Dispatch.lean ====
section
/-! DEFINITION. exec: one arm per row of the decode table (30_encoding.md R78), each one call of its meaning. -/

namespace Sys2Proof.Machine

/-- Serve one decoded transaction: "that row's rule gives its whole effect" (R77). -/
def exec (i : Instr) (s : State) : Host.Outcome State Fault Refusal :=
  match i with
  | .nop _ => Sys2Proof.Machine.execNop s
  | .encode _ => Sys2Proof.Machine.execEncode s
  | .lookup v => Sys2Proof.Machine.execLookup v s
  | .cmdReserved _ => Sys2Proof.Machine.execCmdReserved s
  | .rdCmd _ => Sys2Proof.Machine.execRdCmd s
  | .rdStatus _ => Sys2Proof.Machine.execRdStatus s
  | .wrStatus d => Sys2Proof.Machine.execWrStatus d s
  | .rdBarCount _ => Sys2Proof.Machine.execRdBarCount s
  | .rdInlen _ => Sys2Proof.Machine.execRdInlen s
  | .wrInlen d => Sys2Proof.Machine.execWrInlen d s
  | .rdLkup _ => Sys2Proof.Machine.execRdLkup s
  | .rdChksum _ => Sys2Proof.Machine.execRdChksum s
  | .rdCap _ => Sys2Proof.Machine.execRdCap s
  | .rdMaxin _ => Sys2Proof.Machine.execRdMaxin s
  | .rdInbuf k _ => Sys2Proof.Machine.execRdInbuf k s
  | .wrInbuf k d => Sys2Proof.Machine.execWrInbuf k d s
  | .rdBar k _ => Sys2Proof.Machine.execRdBar k s
  | .wrRoBarCount _ => Sys2Proof.Machine.execWrRoBarCount s
  | .wrRoConfig _ _ => Sys2Proof.Machine.execWrRoConfig s
  | .wrRoBar _ _ => Sys2Proof.Machine.execWrRoBar s
  | .reservedAccess rw _ _ => Sys2Proof.Machine.execReservedAccess rw s

end Sys2Proof.Machine
end

