-- ==== Sys2Proof/Machine/Step.lean ====
section
/-! DEFINITION. One step of the core: it serves the oldest event the host has issued. -/

namespace Sys2Proof.Machine

/-- One step (R58, R168): a transaction is decoded and executed whole; the reset input puts the core in the reset state,
also when it is asserted while a transaction is served, which it cancels (R240, R242); with no event issued the state is
kept (R223, log 3). -/
def step (s : State) : Host.Outcome State Fault Refusal :=
  match s.takeEvent with
  | none => .next s
  | some (.transaction t, s') => exec (decode t) s'
  | some (.reset, s') => .next s'.assertReset
  | some (.resetDuring _, s') => .next s'.assertReset

/-- `s` with the transaction of an opcode-table word as the next event the core serves (log 1, log 16). -/
def State.withFetchWord (s : State) (nbits w : Nat) : State := s.issueFirst (tableTransaction nbits w)

end Sys2Proof.Machine
end

