-- ==== Sys2Proof/Machine/Pseudo.lean ====
section
/-! DEFINITION. Assembler lines and pseudo-instructions (30_encoding.md R79, R80), as data: an assembler's output is a
list of transactions, or a refusal where the pseudo-instruction has no encoding (log 18). -/

namespace Sys2Proof.Machine

/-- The ADDR of an assembler line (R79): a register's name, a window's cell, or a number. -/
inductive AsmAddr where
  | CMD
  | STATUS
  | BAR_COUNT
  | INLEN
  | LKUP
  | CHKSUM
  | CAP
  | MAXIN
  | inbufCell (k : Index)
  | barCell (i : Index)
  | number (a : Addr)
  deriving DecidableEq, Repr

/-- One line of a host program (R79): `rd ADDR` or `wr ADDR, DATA`. -/
inductive AsmLine where
  | rd (a : AsmAddr)
  | wr (a : AsmAddr) (d : Word)
  deriving DecidableEq, Repr

/-- The word address a name stands for (R22, R79). -/
def asmAddr : AsmAddr → Addr
  | .CMD => 0x0000#16
  | .STATUS => 0x0001#16
  | .BAR_COUNT => 0x0002#16
  | .INLEN => 0x0003#16
  | .LKUP => 0x0004#16
  | .CHKSUM => 0x0005#16
  | .CAP => 0x0006#16
  | .MAXIN => 0x0007#16
  | .inbufCell k => windowAddr 0x1#4 k
  | .barCell i => windowAddr 0x2#4 i
  | .number a => a

/-- "The encoding of a line is its 49-bit T" (R79); a read's DATA is 0 in canonical encodings (R70). -/
def assembleLine : AsmLine → Transaction
  | .rd a => transaction .read (asmAddr a) 0#32
  | .wr a d => transaction .write (asmAddr a) d

/-- The pseudo-instructions of R80. -/
inductive Pseudo where
  | nop
  | encode
  | lookup (v : Nat)
  | clrerr
  | barCount
  | barState (i : Nat)
  | load (s : List Byte)
  | encodeString (s : List Byte)
  deriving DecidableEq, Repr

/-- `wr INBUF+k, s[0]`, `wr INBUF+(k+1), s[1]`, … (R80). -/
def loadLines : Nat → List Byte → List AsmLine
  | _, [] => []
  | k, b :: bs => .wr (.inbufCell (BitVec.ofNat 12 k)) (b.setWidth 32) :: loadLines (k + 1) bs

/-- `load "s"` (R80): the INBUF writes, then `wr INLEN, |s|`; refused with |s| > MAX_INPUT_LEN or |s| > 4096. -/
def expandLoad (p : Params) (s : List Byte) : Option (List AsmLine) :=
  if s.length ≤ p.maxInputLen ∧ s.length ≤ 4096 then
    some (loadLines 0 s ++ [.wr .INLEN (BitVec.ofNat 32 s.length)])
  else none

/-- The expansion of a pseudo-instruction (R80), or none where an assembler refuses it: `lookup v` with v > 255,
`bar_state i` with i > 4095, and a `load` that does not fit. -/
def expandPseudo (p : Params) : Pseudo → Option (List AsmLine)
  | .nop => some [.wr .CMD 0x00000000#32]
  | .encode => some [.wr .CMD 0x00000001#32]
  | .lookup v => if v ≤ 255 then some [.wr .CMD (BitVec.ofNat 32 v <<< 8 ||| 0x00000002#32)] else none
  | .clrerr => some [.wr .STATUS 0x00000700#32]
  | .barCount => some [.rd .BAR_COUNT]
  | .barState i => if i ≤ 4095 then some [.rd (.barCell (BitVec.ofNat 12 i))] else none
  | .load s => expandLoad p s
  | .encodeString s => (expandLoad p s).map (· ++ [.wr .CMD 0x00000001#32])

/-- The transactions of a pseudo-instruction, in the order the host issues them. -/
def assemblePseudo (p : Params) (i : Pseudo) : Option (List Transaction) :=
  (expandPseudo p i).map (fun ls => ls.map assembleLine)

end Sys2Proof.Machine
end

