-- ==== Sys2Proof/Safety.lean ====
section
/-! DEFINITION. The terms claims use: what a transaction leaves unchanged, the invariant of the core, the barcode stream
an ENCODE stands for, and what the spec asks of a host. -/

namespace Sys2Proof.Machine

/-! Frames. -/

/-- Everything but STATUS (and the port's output) is as before: the parameters, every register, every INBUF and BAR
cell, and the events still waiting. -/
structure SameButStatus (s t : State) : Prop where
  params    : t.params = s.params
  barLength : t.barLength = s.barLength
  inlen     : t.inlen = s.inlen
  lkup      : t.lkup = s.lkup
  chksum    : t.chksum = s.chksum
  inbuf     : ∀ k, t.inbufCell k = s.inbufCell k
  bar       : ∀ i, t.barCell i = s.barCell i
  resets    : t.resets = s.resets
  pending   : t.pending = s.pending

/-- STATUS included, everything is as before. -/
structure Untouched (s t : State) : Prop where
  same   : SameButStatus s t
  status : t.status = s.status

/-- The one effect is that the sticky bit of `c` is set: RESULT and the other sticky bits are as before, and so is
everything else (R215, R216). -/
structure RecordsOnly (c : Condition) (s t : State) : Prop where
  same   : SameButStatus s t
  set    : t.status.sticky c = true
  others : ∀ c', c' ≠ c → t.status.sticky c' = s.status.sticky c'
  result : t.status.result = s.status.result

/-! The ROM as the spec prints it. -/

/-- One row of the table of R101: the columns "weights" (its digits read as one decimal number), "modules", "pattern"
(its bits read as one binary number) and "LKUP word". -/
structure PrintedSymbol where
  weights : Nat
  modules : Nat
  pattern : Nat
  lkup    : Word
  deriving DecidableEq, Repr

/-- The table of R101, rows 0 to 106 in order, copied from 40_symbol_lookup.md. The machine does not read it: a claim
compares the ROM with it (log 11). -/
def printedSymbols : List PrintedSymbol :=
  [ ⟨212222, 11, 0b11011001100, 0x60222212#32⟩, ⟨222122, 11, 0b11001101100, 0x60221222#32⟩,
    ⟨222221, 11, 0b11001100110, 0x60122222#32⟩, ⟨121223, 11, 0b10010011000, 0x60322121#32⟩,
    ⟨121322, 11, 0b10010001100, 0x60223121#32⟩, ⟨131222, 11, 0b10001001100, 0x60222131#32⟩,
    ⟨122213, 11, 0b10011001000, 0x60312221#32⟩, ⟨122312, 11, 0b10011000100, 0x60213221#32⟩,
    ⟨132212, 11, 0b10001100100, 0x60212231#32⟩, ⟨221213, 11, 0b11001001000, 0x60312122#32⟩ ] ++
  [ ⟨221312, 11, 0b11001000100, 0x60213122#32⟩, ⟨231212, 11, 0b11000100100, 0x60212132#32⟩,
    ⟨112232, 11, 0b10110011100, 0x60232211#32⟩, ⟨122132, 11, 0b10011011100, 0x60231221#32⟩,
    ⟨122231, 11, 0b10011001110, 0x60132221#32⟩, ⟨113222, 11, 0b10111001100, 0x60222311#32⟩,
    ⟨123122, 11, 0b10011101100, 0x60221321#32⟩, ⟨123221, 11, 0b10011100110, 0x60122321#32⟩,
    ⟨223211, 11, 0b11001110010, 0x60112322#32⟩, ⟨221132, 11, 0b11001011100, 0x60231122#32⟩ ] ++
  [ ⟨221231, 11, 0b11001001110, 0x60132122#32⟩, ⟨213212, 11, 0b11011100100, 0x60212312#32⟩,
    ⟨223112, 11, 0b11001110100, 0x60211322#32⟩, ⟨312131, 11, 0b11101101110, 0x60131213#32⟩,
    ⟨311222, 11, 0b11101001100, 0x60222113#32⟩, ⟨321122, 11, 0b11100101100, 0x60221123#32⟩,
    ⟨321221, 11, 0b11100100110, 0x60122123#32⟩, ⟨312212, 11, 0b11101100100, 0x60212213#32⟩,
    ⟨322112, 11, 0b11100110100, 0x60211223#32⟩, ⟨322211, 11, 0b11100110010, 0x60112223#32⟩ ] ++
  [ ⟨212123, 11, 0b11011011000, 0x60321212#32⟩, ⟨212321, 11, 0b11011000110, 0x60123212#32⟩,
    ⟨232121, 11, 0b11000110110, 0x60121232#32⟩, ⟨111323, 11, 0b10100011000, 0x60323111#32⟩,
    ⟨131123, 11, 0b10001011000, 0x60321131#32⟩, ⟨131321, 11, 0b10001000110, 0x60123131#32⟩,
    ⟨112313, 11, 0b10110001000, 0x60313211#32⟩, ⟨132113, 11, 0b10001101000, 0x60311231#32⟩,
    ⟨132311, 11, 0b10001100010, 0x60113231#32⟩, ⟨211313, 11, 0b11010001000, 0x60313112#32⟩ ] ++
  [ ⟨231113, 11, 0b11000101000, 0x60311132#32⟩, ⟨231311, 11, 0b11000100010, 0x60113132#32⟩,
    ⟨112133, 11, 0b10110111000, 0x60331211#32⟩, ⟨112331, 11, 0b10110001110, 0x60133211#32⟩,
    ⟨132131, 11, 0b10001101110, 0x60131231#32⟩, ⟨113123, 11, 0b10111011000, 0x60321311#32⟩,
    ⟨113321, 11, 0b10111000110, 0x60123311#32⟩, ⟨133121, 11, 0b10001110110, 0x60121331#32⟩,
    ⟨313121, 11, 0b11101110110, 0x60121313#32⟩, ⟨211331, 11, 0b11010001110, 0x60133112#32⟩ ] ++
  [ ⟨231131, 11, 0b11000101110, 0x60131132#32⟩, ⟨213113, 11, 0b11011101000, 0x60311312#32⟩,
    ⟨213311, 11, 0b11011100010, 0x60113312#32⟩, ⟨213131, 11, 0b11011101110, 0x60131312#32⟩,
    ⟨311123, 11, 0b11101011000, 0x60321113#32⟩, ⟨311321, 11, 0b11101000110, 0x60123113#32⟩,
    ⟨331121, 11, 0b11100010110, 0x60121133#32⟩, ⟨312113, 11, 0b11101101000, 0x60311213#32⟩,
    ⟨312311, 11, 0b11101100010, 0x60113213#32⟩, ⟨332111, 11, 0b11100011010, 0x60111233#32⟩ ] ++
  [ ⟨314111, 11, 0b11101111010, 0x60111413#32⟩, ⟨221411, 11, 0b11001000010, 0x60114122#32⟩,
    ⟨431111, 11, 0b11110001010, 0x60111134#32⟩, ⟨111224, 11, 0b10100110000, 0x60422111#32⟩,
    ⟨111422, 11, 0b10100001100, 0x60224111#32⟩, ⟨121124, 11, 0b10010110000, 0x60421121#32⟩,
    ⟨121421, 11, 0b10010000110, 0x60124121#32⟩, ⟨141122, 11, 0b10000101100, 0x60221141#32⟩,
    ⟨141221, 11, 0b10000100110, 0x60122141#32⟩, ⟨112214, 11, 0b10110010000, 0x60412211#32⟩ ] ++
  [ ⟨112412, 11, 0b10110000100, 0x60214211#32⟩, ⟨122114, 11, 0b10011010000, 0x60411221#32⟩,
    ⟨122411, 11, 0b10011000010, 0x60114221#32⟩, ⟨142112, 11, 0b10000110100, 0x60211241#32⟩,
    ⟨142211, 11, 0b10000110010, 0x60112241#32⟩, ⟨241211, 11, 0b11000010010, 0x60112142#32⟩,
    ⟨221114, 11, 0b11001010000, 0x60411122#32⟩, ⟨413111, 11, 0b11110111010, 0x60111314#32⟩,
    ⟨241112, 11, 0b11000010100, 0x60211142#32⟩, ⟨134111, 11, 0b10001111010, 0x60111431#32⟩ ] ++
  [ ⟨111242, 11, 0b10100111100, 0x60242111#32⟩, ⟨121142, 11, 0b10010111100, 0x60241121#32⟩,
    ⟨121241, 11, 0b10010011110, 0x60142121#32⟩, ⟨114212, 11, 0b10111100100, 0x60212411#32⟩,
    ⟨124112, 11, 0b10011110100, 0x60211421#32⟩, ⟨124211, 11, 0b10011110010, 0x60112421#32⟩,
    ⟨411212, 11, 0b11110100100, 0x60212114#32⟩, ⟨421112, 11, 0b11110010100, 0x60211124#32⟩,
    ⟨421211, 11, 0b11110010010, 0x60112124#32⟩, ⟨212141, 11, 0b11011011110, 0x60141212#32⟩ ] ++
  [ ⟨214121, 11, 0b11011110110, 0x60121412#32⟩, ⟨412121, 11, 0b11110110110, 0x60121214#32⟩,
    ⟨111143, 11, 0b10101111000, 0x60341111#32⟩, ⟨111341, 11, 0b10100011110, 0x60143111#32⟩,
    ⟨131141, 11, 0b10001011110, 0x60141131#32⟩, ⟨114113, 11, 0b10111101000, 0x60311411#32⟩,
    ⟨114311, 11, 0b10111100010, 0x60113411#32⟩, ⟨411113, 11, 0b11110101000, 0x60311114#32⟩,
    ⟨411311, 11, 0b11110100010, 0x60113114#32⟩, ⟨113141, 11, 0b10111011110, 0x60141311#32⟩ ] ++
  [ ⟨114131, 11, 0b10111101110, 0x60131411#32⟩, ⟨311141, 11, 0b11101011110, 0x60141113#32⟩,
    ⟨411131, 11, 0b11110101110, 0x60131114#32⟩, ⟨211412, 11, 0b11010000100, 0x60214112#32⟩,
    ⟨211214, 11, 0b11010010000, 0x60412112#32⟩, ⟨211232, 11, 0b11010011100, 0x60232112#32⟩,
    ⟨2331112, 13, 0b1100011101011, 0x72111332#32⟩ ]

/-- The number whose digits in `base` are `ds`, first digit first. -/
def digitsNumber (base : Nat) (ds : List Nat) : Nat := ds.foldl (fun n d => base * n + d) 0

/-! The barcode of an input. -/

/-- The data symbol values of the input (R163, R164): value j (from 0) is made from INBUF[2j] and INBUF[2j+1]. -/
def inputSymbols (s : State) : List Nat :=
  (List.range (s.inlen.toNat / 2)).map fun j =>
    10 * ((s.inbufByte (2 * j)).toNat - 0x30) + ((s.inbufByte (2 * j + 1)).toNat - 0x30)

/-- 1·v_1 + 2·v_2 + … + m·v_m, the first value having position `i` (R145). -/
def positionalSum : Nat → List Nat → Nat
  | _, [] => 0
  | i, v :: vs => i * v + positionalSum (i + 1) vs

/-- The closed form of the checksum symbol value (R145). -/
def checksumOf (vs : List Nat) : Nat := (105 + positionalSum 1 vs) % 103

/-- The symbols of a barcode with data symbols `vs` (R163): START-C, the data, the checksum, STOP. -/
def symbolSequence (vs : List Nat) : List Nat := 105 :: (vs ++ [checksumOf vs, 106])

/-- The full bit stream S (R126): the expansions of all symbols, each starting on a bar (R124). -/
def fullStream (vs : List Nat) : List Bool := (symbolSequence vs).flatMap (fun v => expand (lookup v) true)

/-- Valid input (R162), said of the bytes: even length, and every byte from 0x30 to 0x39. -/
def ValidInput (s : State) : Prop :=
  s.inlen.toNat % 2 = 0 ∧
    ∀ k, k < s.inlen.toNat → 0x30 ≤ (s.inbufByte k).toNat ∧ (s.inbufByte k).toNat ≤ 0x39

/-! The invariant. -/

/-- CHKSUM is VALID with a checksum symbol value 0 to 102 (R28, R143). -/
def ChksumValid (w : Word) : Prop := ∃ chk, chk ≤ 102 ∧ w = 0x80000000#32 ||| BitVec.ofNat 32 chk

/-- What RESULT says about the BarStore and CHKSUM (the table of R24, with R28, R124, R127, R128, R167). -/
def ResultAgrees (s : State) : Prop :=
  match s.status.result with
  | .none => s.barLength = 0#13 ∧ s.chksum = 0#32
  | .ok => ChksumValid s.chksum ∧ (∃ m, m ≤ 2048 ∧ s.barLength.toNat = 35 + 11 * m) ∧
      s.barCell 0 = some true ∧ s.barCell (s.barLength.toNat - 1) = some true
  | .truncated => ChksumValid s.chksum ∧ s.barLength.toNat = s.params.capacity ∧ s.barCell 0 = some true
  | .invalidInput => s.barLength = 0#13 ∧ s.chksum = 0#32
  | .inputOverrun => s.barLength = 0#13 ∧ s.chksum = 0#32

/-- The invariant of the core. -/
structure State.Inv (s : State) : Prop where
  /-- The instance's parameters are legal (R7). -/
  params_legal : s.params.Legal
  /-- LENGTH ≤ CAPACITY (R25, R32). -/
  length_le    : s.barLength.toNat ≤ s.params.capacity
  /-- The BAR cells that hold a value are BAR[0..LENGTH) (R31, R36; log 7). -/
  bar_cells    : s.bar.length = s.barLength.toNat
  /-- INBUF's list of cells has its canonical form. -/
  inbuf_wf     : Memory.wf s.inbuf
  /-- No cell outside INBUF[0..MAX_INPUT_LEN) is ever written (R30, R183). -/
  inbuf_bound  : ∀ c ∈ s.inbuf, c.1 < s.params.maxInputLen
  /-- LKUP is 0 or the word of a ROM entry (R27). -/
  lkup_word    : s.lkup = 0#32 ∨ ∃ v, v ≤ 106 ∧ s.lkup = lkupWord (lookup v)
  /-- RESULT, the BarStore and CHKSUM agree (R24). -/
  result       : ResultAgrees s

/-! What the spec asks of a host (R191, R241, R246). The core does not check it and never stops for it. -/

/-- The host keeps its duty with this transaction in this state: it reads BAR only below LENGTH (R191, R246 (b)), reads
or encodes only INBUF cells written since reset ("reading it is a fault of the program", R241, R246 (a)), and makes no
access that records a condition (D17). -/
def HostDuty (i : Instr) (s : State) : Prop :=
  match i with
  | .rdBar k _ => windowIndex k < s.barLength.toNat
  | .rdInbuf k _ => windowIndex k < s.params.maxInputLen ∧ (s.inbufCell (windowIndex k)).isSome = true
  | .wrInbuf k _ => windowIndex k < s.params.maxInputLen
  | .encode _ => s.inlen.toNat ≤ s.params.maxInputLen ∧
      ∀ k, k < s.inlen.toNat → (s.inbufCell k).isSome = true
  | .cmdReserved _ | .wrRoBarCount _ | .wrRoConfig _ _ | .wrRoBar _ _ | .reservedAccess _ _ _ => False
  | .nop _ | .lookup _ | .rdCmd _ | .rdStatus _ | .wrStatus _ | .rdBarCount _ | .rdInlen _ | .wrInlen _ | .rdLkup _
  | .rdChksum _ | .rdCap _ | .rdMaxin _ => True

/-- No sticky bit is set (D17, U13). -/
def CleanStatus (s : State) : Prop := ∀ c, s.status.sticky c = false

/-- RESULT says that the barcode is whole (R246 (d): TRUNCATED is "a barcode that is not whole"). -/
def WholeBarcode (s : State) : Prop := s.status.result = .ok

end Sys2Proof.Machine
end

