-- ==== Sys2Proof/Certificates/Slice0/Obligations.lean ====
section
/-! DEFINITION. The statements for the provers. Each says which rule of spec/ it formalises. -/

open Sys2Proof Sys2Proof.Machine

/-! Encoding and decoding (30_encoding.md). -/

/-- R70 to R74, R78: decoding the transaction of a well-formed instruction gives the instruction back, every field at
every value. -/
def Obligations.DecodeOfEncodeGivesInstructionBack : Prop :=
  ∀ i : Instr, i.wf = true → decode (encodeInstr i) = i

/-- R70, R77, R78: every transaction decodes to a well-formed instruction, and encoding that gives the transaction back. -/
def Obligations.EncodeOfDecodeGivesTransactionBack : Prop :=
  ∀ t : Transaction, (decode t).wf = true ∧ encodeInstr (decode t) = t

/-- R78: the decoder, written over fields, picks the first row of the opcode table that matches, for each of the 2^49
transactions; row 21 matches everything, and rows 1 to 3 and 5 to 20 are pairwise disjoint. -/
def Obligations.DecoderTakesFirstMatchingRow : Prop :=
  (∀ t : Transaction, firstMatchingRow t = some (decode t).row) ∧
  (∀ t : Transaction, ∀ r ∈ opcodeTable, r.number = 21 → r.matches t = true) ∧
  (∀ t : Transaction, ∀ r ∈ opcodeTable, ∀ r' ∈ opcodeTable,
    r.number ≠ 4 → r.number ≠ 21 → r'.number ≠ 4 → r'.number ≠ 21 →
    r.matches t = true → r'.matches t = true → r.number = r'.number)

/-- R81: the spec's worked encodings, and what each word decodes to. -/
def Obligations.WorkedEncodings : Prop :=
  (∀ p, assemblePseudo p .encode = some [0x1000000000001#49]) ∧ decode 0x1000000000001#49 = .encode 0 ∧
  (∀ p, assemblePseudo p (.lookup 106) = some [0x1000000006A02#49]) ∧ decode 0x1000000006A02#49 = .lookup 106 ∧
  (∀ p, assemblePseudo p (.barState 0) = some [0x0200000000000#49]) ∧ decode 0x0200000000000#49 = .rdBar 0 0 ∧
  assembleLine (.wr (.inbufCell 0) 0x30) = 0x1100000000030#49 ∧ decode 0x1100000000030#49 = .wrInbuf 0 0x30 ∧
  assembleLine (.wr .INLEN 2) = 0x1000300000002#49 ∧ decode 0x1000300000002#49 = .wrInlen 2 ∧
  (∀ p, assemblePseudo p .barCount = some [0x0000200000000#49]) ∧ decode 0x0000200000000#49 = .rdBarCount 0

/-- R80: what the transactions of each pseudo-instruction decode to, and which pseudo-instructions an assembler refuses.
That `encode "s"` is refused where its `load "s"` is refused is the model's choice (log 18): R80's list of refusals does
not name it, and says that it is then written by hand. -/
def Obligations.PseudoInstructionsDecodeAsExpanded : Prop :=
  ∀ p : Params,
    (assemblePseudo p .nop).map (·.map decode) = some [.nop 0] ∧
    (assemblePseudo p .encode).map (·.map decode) = some [.encode 0] ∧
    (∀ v : Nat, (assemblePseudo p (.lookup v)).map (·.map decode) =
      if v ≤ 255 then some [.lookup (BitVec.ofNat 8 v)] else none) ∧
    (assemblePseudo p .clrerr).map (·.map decode) = some [.wrStatus 0x700] ∧
    (assemblePseudo p .barCount).map (·.map decode) = some [.rdBarCount 0] ∧
    (∀ i : Nat, (assemblePseudo p (.barState i)).map (·.map decode) =
      if i ≤ 4095 then some [.rdBar (BitVec.ofNat 12 i) 0] else none) ∧
    (∀ s : List Byte, (assemblePseudo p (.load s)).map (·.map decode) =
      if s.length ≤ p.maxInputLen ∧ s.length ≤ 4096 then
        some (s.mapIdx (fun k b => .wrInbuf (BitVec.ofNat 12 k) (byteWord b)) ++ [.wrInlen (BitVec.ofNat 32 s.length)])
      else none) ∧
    (∀ s : List Byte, (assemblePseudo p (.encodeString s)).map (·.map decode) =
      if s.length ≤ p.maxInputLen ∧ s.length ≤ 4096 then
        some (s.mapIdx (fun k b => .wrInbuf (BitVec.ofNat 12 k) (byteWord b)) ++
          [.wrInlen (BitVec.ofNat 32 s.length), .encode 0])
      else none)

/-! The step and the reset input. -/

/-- R58, R77 (and log 1): with a transaction the oldest event, a step is exec of the decoded transaction on the state
with that event taken off the queue. -/
def Obligations.StepServesOldestTransaction : Prop :=
  ∀ (s : State) (x : Transaction) (rest : List HostEvent), s.pending = .transaction x :: rest →
    step s = exec (decode x) (s.setPending rest)

/-- R240, R242: the reset input, asserted between transactions or while any transaction is served, leads to the reset
state, and no word is returned. -/
def Obligations.ResetInputLeadsToResetState : Prop :=
  ∀ (s : State) (e : HostEvent) (rest : List HostEvent), s.pending = e :: rest →
    (e = .reset ∨ ∃ x, e = .resetDuring x) →
    ∃ t, step s = .next t ∧ statusWord t.status = 0#32 ∧ t.status.result = .none ∧ CleanStatus t ∧
      t.barLength = 0#13 ∧ t.inlen = 0#16 ∧ t.lkup = 0#32 ∧ t.chksum = 0#32 ∧ t.params = s.params ∧
      t.returned = none ∧
      (∃ u, exec (.rdCap 0) t = .next u ∧ u.returned = some (BitVec.ofNat 32 s.params.capacity)) ∧
      (∃ u, exec (.rdMaxin 0) t = .next u ∧ u.returned = some (BitVec.ofNat 32 s.params.maxInputLen)) ∧
      (∃ u, exec (.rdBarCount 0) t = .next u ∧ u.returned = some 0#32)

/-- R241: after the reset input no INBUF cell holds a value. The clauses on BAR's cells, on the events still waiting and
on the reset counter are the model's choice (log 6, log 7, log 9). -/
def Obligations.ResetInputEmptiesInbufAndKeepsQueue : Prop :=
  ∀ (s : State) (e : HostEvent) (rest : List HostEvent), s.pending = e :: rest →
    (e = .reset ∨ ∃ x, e = .resetDuring x) →
    ∃ t, step s = .next t ∧ (∀ k, t.inbufCell k = none) ∧ (∀ i, t.barCell i = none) ∧ t.pending = rest ∧
      t.resets = s.resets + 1

/-- R223 (and log 3, the model's choice): with no event issued a step keeps the whole state. -/
def Obligations.IdleStepKeepsState : Prop :=
  ∀ s : State, s.pending = [] → step s = .next s

/-- R22, R240: what each register reads as in the reset state of an instance with legal parameters. -/
def Obligations.ResetRegistersRead : Prop :=
  ∀ (p : Params) (x : Word), p.Legal →
    (∃ t, exec (.rdCmd x) (State.resetFor p) = .next t ∧ t.returned = some 0#32) ∧
    (∃ t, exec (.rdStatus x) (State.resetFor p) = .next t ∧ t.returned = some 0#32) ∧
    (∃ t, exec (.rdBarCount x) (State.resetFor p) = .next t ∧ t.returned = some 0#32) ∧
    (∃ t, exec (.rdInlen x) (State.resetFor p) = .next t ∧ t.returned = some 0#32) ∧
    (∃ t, exec (.rdLkup x) (State.resetFor p) = .next t ∧ t.returned = some 0#32) ∧
    (∃ t, exec (.rdChksum x) (State.resetFor p) = .next t ∧ t.returned = some 0#32) ∧
    (∃ t w, exec (.rdCap x) (State.resetFor p) = .next t ∧ t.returned = some w ∧ w.toNat = p.capacity) ∧
    (∃ t w, exec (.rdMaxin x) (State.resetFor p) = .next t ∧ t.returned = some w ∧ w.toNat = p.maxInputLen) ∧
    (∀ i, ∃ t, exec (.rdBar i x) (State.resetFor p) = .next t ∧ t.returned = some 0#32)

/-! Rules of the whole machine. -/

/-- R210, R248: every transaction and every step completes in every state, and an ENCODE of a valid input handles at
most 4096 bytes and at most 22563 modules. -/
def Obligations.EveryTransactionCompletes : Prop :=
  (∀ (i : Instr) (s : State), ∃ t, exec i s = .next t) ∧ (∀ s : State, ∃ t, step s = .next t) ∧
  (∀ s : State, s.params.Legal → s.inlen.toNat ≤ s.params.maxInputLen → ValidInput s →
    s.inlen.toNat ≤ 4096 ∧ (encodeSymbols s).1.tot ≤ 22563)

/-- The invariant of Safety.lean (R7, R24, R25, R27, R28, R32, R128, and INBUF's canonical form) is kept by every step
from every state that has it, the reset input included. -/
def Obligations.StepKeepsInvariant : Prop :=
  ∀ s t : State, s.Inv → step s = .next t → t.Inv

/-- The reset state of every legal instance has the invariant, and so has the model's own `State.reset`. -/
def Obligations.ResetStateHasInvariant : Prop :=
  (∀ p : Params, p.Legal → (State.resetFor p).Inv) ∧ State.reset.Inv

/-- R23, R25, R27, R28, R31: a transaction other than ENCODE leaves RESULT, LENGTH, CHKSUM and every BAR cell, and a
transaction other than LOOKUP leaves LKUP. -/
def Obligations.BarcodeWrittenOnlyByEncode : Prop :=
  ∀ (i : Instr) (s t : State), exec i s = .next t →
    ((∀ v, i ≠ .encode v) → t.status.result = s.status.result ∧ t.barLength = s.barLength ∧ t.chksum = s.chksum ∧
      ∀ k, t.barCell k = s.barCell k) ∧
    ((∀ v, i ≠ .lookup v) → t.lkup = s.lkup)

/-- R30, R26: INBUF is written only by an in-range WR_INBUF, one cell at a time, and INLEN only by WR_INLEN. -/
def Obligations.InputWrittenOnlyByInputWrites : Prop :=
  ∀ (i : Instr) (s t : State), exec i s = .next t →
    (∀ k, t.inbufCell k ≠ s.inbufCell k →
      ∃ (j : Index) (d : Word), i = .wrInbuf j d ∧ j.toNat = k ∧ k < s.params.maxInputLen) ∧
    ((∀ d, i ≠ .wrInlen d) → t.inlen = s.inlen)

/-- R215: one transaction sets at most one sticky bit, and which one its kind allows; a sticky bit already set stays set
unless the transaction is a STATUS write; ENCODE overwrites RESULT: what it leaves is the same whatever RESULT was before,
and never NONE. -/
def Obligations.OneStickyBitPerTransaction : Prop :=
  ∀ (i : Instr) (s t : State), exec i s = .next t →
    (∀ c, s.status.sticky c = false → t.status.sticky c = true →
      match c with
      | .badCmd => ∃ d, i = .cmdReserved d
      | .range => (∃ k x, i = .rdInbuf k x) ∨ (∃ k d, i = .wrInbuf k d) ∨ (∃ k x, i = .rdBar k x)
      | .accErr => (∃ k d, i = .wrRoBar k d) ∨ (∃ d, i = .wrRoBarCount d) ∨ (∃ g d, i = .wrRoConfig g d) ∨
          (∃ rw a d, i = .reservedAccess rw a d)) ∧
    (∀ c c', s.status.sticky c = false → t.status.sticky c = true → s.status.sticky c' = false →
      t.status.sticky c' = true → c = c') ∧
    (∀ c, (∀ d, i ≠ .wrStatus d) → s.status.sticky c = true → t.status.sticky c = true) ∧
    (∀ v, i = .encode v → t.status.result ≠ .none ∧ ∀ r, exec i (s.setResult r) = .next t)

/-- R23, R217: over one step a sticky bit is cleared only by a STATUS write with a 1 in its place or by the reset input,
and RESULT changes only by an ENCODE or by the reset input. -/
def Obligations.StickyBitsClearedOnlyByStatusWriteOrReset : Prop :=
  ∀ (s t : State), step s = .next t →
    (∀ c, s.status.sticky c = true → t.status.sticky c = false →
      ∃ e rest, s.pending = e :: rest ∧
        (e = .reset ∨ (∃ x, e = .resetDuring x) ∨
          ∃ x d, e = .transaction x ∧ decode x = .wrStatus d ∧ d.getLsbD (conditionBit c) = true)) ∧
    (t.status.result ≠ s.status.result →
      ∃ e rest, s.pending = e :: rest ∧
        (((e = .reset ∨ ∃ x, e = .resetDuring x) ∧ t.status.result = .none) ∨
          ∃ x v, e = .transaction x ∧ decode x = .encode v))

/-- R32: no step changes CAPACITY or writes a BAR cell at or past it, and LENGTH ≤ CAPACITY holds after it. -/
def Obligations.StoreDoesNotGrow : Prop :=
  ∀ s t : State, s.Inv → step s = .next t →
    t.params = s.params ∧ t.barLength.toNat ≤ s.params.capacity ∧
      ∀ i, s.params.capacity ≤ i → t.barCell i = s.barCell i

/-- R56: reads of registers and in-range window reads leave everything as it was; an out-of-range window read and a
read of a reserved address record one condition; and every transaction, served twice in a row, leaves what it left the
first time. -/
def Obligations.ReadsHaveNoSideEffectAndAllIsIdempotent : Prop :=
  ∀ (s : State) (x : Word),
    (∀ i ∈ [Instr.rdCmd x, .rdStatus x, .rdBarCount x, .rdInlen x, .rdLkup x, .rdChksum x, .rdCap x, .rdMaxin x],
      ∃ t, exec i s = .next t ∧ Untouched s t) ∧
    (∀ k : Index, ∃ t, exec (.rdInbuf k x) s = .next t ∧
      if k.toNat < s.params.maxInputLen then Untouched s t else RecordsOnly .range s t) ∧
    (∀ k : Index, ∃ t, exec (.rdBar k x) s = .next t ∧
      if k.toNat < s.barLength.toNat then Untouched s t else RecordsOnly .range s t) ∧
    (∀ a : Addr, ∃ t, exec (.reservedAccess .read a x) s = .next t ∧ RecordsOnly .accErr s t) ∧
    (∀ (i : Instr) (t : State), exec i s = .next t → exec i t = .next t)

/-! STATUS and the other registers (44_host_access.md). -/

/-- R180: RD_STATUS returns the composed word and changes nothing; WR_STATUS clears exactly the sticky bits with a 1 in
their place of the data. -/
def Obligations.StatusReadAndClear : Prop :=
  ∀ (s : State) (d : Word),
    decode (transaction .read 0x0001#16 d) = .rdStatus d ∧ decode (transaction .write 0x0001#16 d) = .wrStatus d ∧
    (∃ t w, exec (.rdStatus d) s = .next t ∧ t.returned = some w ∧ Untouched s t ∧
      w.extractLsb' 0 3 = (match s.status.result with
        | .none => 0#3 | .ok => 1#3 | .truncated => 2#3 | .invalidInput => 3#3 | .inputOverrun => 4#3) ∧
      w.extractLsb' 3 5 = 0#5 ∧ w.getLsbD 8 = s.status.badCmd ∧ w.getLsbD 9 = s.status.range ∧
      w.getLsbD 10 = s.status.accErr ∧ w.extractLsb' 11 21 = 0#21) ∧
    (∃ t, exec (.wrStatus d) s = .next t ∧ t.returned = none ∧ SameButStatus s t ∧
      t.status.badCmd = (s.status.badCmd && !d.getLsbD 8) ∧ t.status.range = (s.status.range && !d.getLsbD 9) ∧
      t.status.accErr = (s.status.accErr && !d.getLsbD 10) ∧ t.status.result = s.status.result)

/-- R181: RD_BAR_COUNT returns LENGTH zero-extended, which is never above CAPACITY, and is 0 after reset. -/
def Obligations.BarCountReadsLength : Prop :=
  ∀ (s : State) (x : Word),
    decode (transaction .read 0x0002#16 x) = .rdBarCount x ∧
    (∃ t w, exec (.rdBarCount x) s = .next t ∧ t.returned = some w ∧ w.toNat = s.barLength.toNat ∧ Untouched s t ∧
      (s.Inv → w.toNat ≤ s.params.capacity)) ∧
    (∀ p, ∃ t, exec (.rdBarCount x) (State.resetFor p) = .next t ∧ t.returned = some 0#32) ∧
    (∀ (v : Byte) (u : State), exec (.encode v) s = .next u →
      u.status.result = .invalidInput ∨ u.status.result = .inputOverrun →
      ∃ t, exec (.rdBarCount x) u = .next t ∧ t.returned = some 0#32)

/-- R182: WR_INLEN stores data bits 15:0 as written and changes nothing else; RD_INLEN returns them zero-extended. -/
def Obligations.InlenReadAndWrite : Prop :=
  ∀ (s : State) (d x : Word),
    decode (transaction .read 0x0003#16 d) = .rdInlen d ∧ decode (transaction .write 0x0003#16 d) = .wrInlen d ∧
    (∃ t w, exec (.rdInlen x) s = .next t ∧ t.returned = some w ∧ w.toNat = s.inlen.toNat ∧ Untouched s t) ∧
    (∃ t, exec (.wrInlen d) s = .next t ∧ t.returned = none ∧ t.inlen.toNat = d.toNat % 65536 ∧
      t.params = s.params ∧ t.status = s.status ∧ t.barLength = s.barLength ∧ t.lkup = s.lkup ∧ t.chksum = s.chksum ∧
      (∀ k, t.inbufCell k = s.inbufCell k) ∧ (∀ k, t.barCell k = s.barCell k) ∧ t.resets = s.resets ∧
      t.pending = s.pending ∧
      ∃ u w, exec (.rdInlen x) t = .next u ∧ u.returned = some w ∧ w.toNat = d.toNat % 65536)

/-- R184, R187, R188, R193, R194: RD_CMD returns 0, RD_LKUP and RD_CHKSUM their register, RD_CAP and RD_MAXIN the
instance's parameters; none changes anything. LKUP is 0 after reset and after a LOOKUP miss, CHKSUM after reset and after
a failed ENCODE. -/
def Obligations.RegisterReadsReturnRegisters : Prop :=
  ∀ (s : State) (x : Word), s.params.Legal →
    decode (transaction .read 0x0000#16 x) = .rdCmd x ∧ decode (transaction .read 0x0004#16 x) = .rdLkup x ∧
    decode (transaction .read 0x0005#16 x) = .rdChksum x ∧ decode (transaction .read 0x0006#16 x) = .rdCap x ∧
    decode (transaction .read 0x0007#16 x) = .rdMaxin x ∧
    (∃ t, exec (.rdCmd x) s = .next t ∧ t.returned = some 0#32 ∧ Untouched s t) ∧
    (∃ t, exec (.rdLkup x) s = .next t ∧ t.returned = some s.lkup ∧ Untouched s t) ∧
    (∃ t, exec (.rdChksum x) s = .next t ∧ t.returned = some s.chksum ∧ Untouched s t) ∧
    (∃ t w, exec (.rdCap x) s = .next t ∧ t.returned = some w ∧ w.toNat = s.params.capacity ∧ Untouched s t) ∧
    (∃ t w, exec (.rdMaxin x) s = .next t ∧ t.returned = some w ∧ w.toNat = s.params.maxInputLen ∧ Untouched s t) ∧
    (∀ p, (State.resetFor p).lkup = 0#32 ∧ (State.resetFor p).chksum = 0#32) ∧
    (∀ (v : Byte) (t : State), 106 < v.toNat → exec (.lookup v) s = .next t → t.lkup = 0#32) ∧
    (∀ (v : Byte) (t : State), exec (.encode v) s = .next t →
      t.status.result = .invalidInput ∨ t.status.result = .inputOverrun → t.chksum = 0#32)

/-! The windows. -/

/-- R183: WR_INBUF stores data bits 7:0 in the one cell an in-range index names; out of range nothing is stored and
RANGE is set. -/
def Obligations.InbufWriteStoresOneByte : Prop :=
  ∀ (s : State) (k : Index) (d : Word),
    decode (transaction .write (windowAddr 0x1#4 k) d) = .wrInbuf k d ∧
    ∃ t, exec (.wrInbuf k d) s = .next t ∧ t.returned = none ∧
      if k.toNat < s.params.maxInputLen then
        t.inbufCell k.toNat = some (BitVec.ofNat 8 (d.toNat % 256)) ∧
        (∀ j, j ≠ k.toNat → t.inbufCell j = s.inbufCell j) ∧
        t.params = s.params ∧ t.status = s.status ∧ t.barLength = s.barLength ∧ t.inlen = s.inlen ∧ t.lkup = s.lkup ∧
        t.chksum = s.chksum ∧ (∀ i, t.barCell i = s.barCell i) ∧ t.resets = s.resets ∧ t.pending = s.pending
      else RecordsOnly .range s t

/-- R186: RD_INBUF returns the byte of an in-range cell, some byte where the cell has not been written since reset, and
changes nothing; out of range it returns 0 and sets RANGE. -/
def Obligations.InbufReadReturnsByte : Prop :=
  ∀ (s : State) (k : Index) (x : Word),
    decode (transaction .read (windowAddr 0x1#4 k) x) = .rdInbuf k x ∧
    ∃ t w, exec (.rdInbuf k x) s = .next t ∧ t.returned = some w ∧
      if k.toNat < s.params.maxInputLen then
        Untouched s t ∧ w.toNat < 256 ∧ ∀ b, s.inbufCell k.toNat = some b → w.toNat = b.toNat
      else RecordsOnly .range s t ∧ w = 0#32

/-- R58, R183, R186: a read of INBUF after an in-range write gives the byte written, and every other cell reads as it
read before the write. -/
def Obligations.InbufReadAfterWrite : Prop :=
  ∀ (s t : State) (k j : Index) (d x : Word), k.toNat < s.params.maxInputLen → exec (.wrInbuf k d) s = .next t →
    (∃ u w, exec (.rdInbuf k x) t = .next u ∧ u.returned = some w ∧ w.toNat = d.toNat % 256) ∧
    (j ≠ k → ∀ v w, exec (.rdInbuf j x) s = .next v → exec (.rdInbuf j x) t = .next w → w.returned = v.returned)

/-- R185: RD_BAR returns 1 for a bar and 0 for a space below LENGTH and changes nothing; at or past LENGTH it returns 0
and sets RANGE. -/
def Obligations.BarReadReturnsModule : Prop :=
  ∀ (s : State) (i : Index) (x : Word), s.Inv →
    decode (transaction .read (windowAddr 0x2#4 i) x) = .rdBar i x ∧
    ∃ t w, exec (.rdBar i x) s = .next t ∧ t.returned = some w ∧
      if i.toNat < s.barLength.toNat then
        Untouched s t ∧ ∃ b, s.barCell i.toNat = some b ∧ w.toNat = (if b = true then 1 else 0)
      else RecordsOnly .range s t ∧ w = 0#32

/-- R185: an index at or past LENGTH sets RANGE and returns 0 in every state, the invariant not assumed. -/
def Obligations.BarReadPastLengthReturnsZero : Prop :=
  ∀ (s : State) (i : Index) (x : Word), s.barLength.toNat ≤ i.toNat →
    ∃ t, exec (.rdBar i x) s = .next t ∧ t.returned = some 0#32 ∧ RecordsOnly .range s t

/-! Commands and access errors. -/

/-- R190: a CMD write with OP = 0 and bits 7:4 and 31:16 zero is NOP whatever V is, and changes nothing. -/
def Obligations.NopChangesNothing : Prop :=
  ∀ (s : State) (d : Word) (v : Byte),
    (d.extractLsb' 0 4 = 0#4 → d.extractLsb' 4 4 = 0#4 → d.extractLsb' 16 16 = 0#16 →
      decode (transaction .write 0x0000#16 d) = .nop (d.extractLsb' 8 8)) ∧
    ∃ t, exec (.nop v) s = .next t ∧ t.returned = none ∧ Untouched s t

/-- R75: a CMD write with OP ≥ 3 or a 1 in bits 7:4 or 31:16 selects no command; its one effect is BADCMD, and repeating
it leaves the same state. -/
def Obligations.ReservedCommandSetsBadcmd : Prop :=
  ∀ (s : State) (d : Word),
    (3 ≤ (d.extractLsb' 0 4).toNat ∨ d.extractLsb' 4 4 ≠ 0#4 ∨ d.extractLsb' 16 16 ≠ 0#16) →
    decode (transaction .write 0x0000#16 d) = .cmdReserved d ∧
    ∃ t, exec (.cmdReserved d) s = .next t ∧ t.returned = none ∧ RecordsOnly .badCmd s t ∧
      exec (.cmdReserved d) t = .next t

/-- R189 (with R76): a read or write of 0x0008 to 0x0FFF or 0x3000 to 0xFFFF sets ACCERR and nothing else; a read
returns 0. -/
def Obligations.ReservedAddressSetsAccerr : Prop :=
  ∀ (s : State) (rw : Direction) (a : Addr) (d : Word),
    ((0x0008 ≤ a.toNat ∧ a.toNat ≤ 0x0FFF) ∨ 0x3000 ≤ a.toNat) →
    decode (transaction rw a d) = .reservedAccess rw a d ∧
    ∃ t, exec (.reservedAccess rw a d) s = .next t ∧ RecordsOnly .accErr s t ∧
      (rw = .read → t.returned = some 0#32) ∧ (rw = .write → t.returned = none) ∧
      exec (.reservedAccess rw a d) t = .next t

/-- R195, R196, R197: a write to BAR_COUNT, to LKUP, CHKSUM, CAP or MAXIN, or to the BAR window at any index sets ACCERR
and changes nothing else. -/
def Obligations.ReadOnlyWritesSetAccerr : Prop :=
  ∀ (s : State) (i : Index) (g : ConfigTarget) (d : Word),
    decode (transaction .write 0x0002#16 d) = .wrRoBarCount d ∧
    decode (transaction .write (configAddr g) d) = .wrRoConfig g d ∧
    decode (transaction .write (windowAddr 0x2#4 i) d) = .wrRoBar i d ∧
    (∃ t, exec (.wrRoBarCount d) s = .next t ∧ t.returned = none ∧ RecordsOnly .accErr s t) ∧
    (∃ t, exec (.wrRoConfig g d) s = .next t ∧ t.returned = none ∧ RecordsOnly .accErr s t) ∧
    (∃ t, exec (.wrRoBar i d) s = .next t ∧ t.returned = none ∧ RecordsOnly .accErr s t)

/-- R106, R27: LOOKUP v leaves in LKUP the number of runs in bits 31:28 and run k in nibble k, zero past the last run; a
miss leaves 0; no STATUS bit and nothing else changes. -/
def Obligations.LookupPacksWeights : Prop :=
  ∀ (s : State) (v : Byte),
    decode (transaction .write 0x0000#16 (commandWord 0x2#4 v)) = .lookup v ∧
    ∃ t, exec (.lookup v) s = .next t ∧ t.returned = none ∧
      (t.lkup.extractLsb' 28 4).toNat = (lookup v.toNat).length ∧
      (∀ k, k < 7 → (t.lkup.extractLsb' (4 * k) 4).toNat = (lookup v.toNat).getD k 0) ∧
      (106 < v.toNat → t.lkup = 0#32) ∧
      t.params = s.params ∧ t.status = s.status ∧ t.barLength = s.barLength ∧ t.inlen = s.inlen ∧
      t.chksum = s.chksum ∧ (∀ k, t.inbufCell k = s.inbufCell k) ∧ (∀ i, t.barCell i = s.barCell i) ∧
      t.resets = s.resets ∧ t.pending = s.pending

/-- R101 to R104: every entry of the ROM is the row of the spec's table for its symbol value, in the weights, the number
of modules, the pattern and the word LOOKUP leaves in LKUP; the widths of the entries, the consistency checks, and where
a lookup misses. -/
def Obligations.RomEntriesHaveStatedWidths : Prop :=
  romTable.length = 107 ∧ printedSymbols.length = 107 ∧
  (∀ v row, printedSymbols[v]? = some row →
    digitsNumber 10 (lookup v) = row.weights ∧ (lookup v).sum = row.modules ∧
    digitsNumber 2 ((expand (lookup v) true).map Bool.toNat) = row.pattern ∧
    ∀ s : State, ∃ t, exec (.lookup (BitVec.ofNat 8 v)) s = .next t ∧ t.lkup = row.lkup) ∧
  (∀ v ∈ List.range 106, (lookup v).length = 6 ∧ (lookup v).sum = 11) ∧
  (lookup 106).length = 7 ∧ (lookup 106).sum = 13 ∧
  (∀ w ∈ romTable, ∀ n ∈ w, 1 ≤ n ∧ n ≤ 4) ∧
  romTable.Pairwise (· ≠ ·) ∧
  (∀ v ∈ List.range 106, ((lookup v).getD 0 0 + (lookup v).getD 2 0 + (lookup v).getD 4 0) % 2 = 0) ∧
  expand (lookup 105) true = [true, true, false, true, false, false, true, true, true, false, false] ∧
  expand (lookup 106) true =
    [true, true, false, false, false, true, true, true, false, true, false, true, true] ∧
  (∀ v, v ≤ 106 → romTable[v]? = some (lookup v)) ∧
  (∀ v, 106 < v → lookup v = [])

/-! The bit-packer and the checksum engine. -/

/-- R120, R122, R123, R125: AppendSymbol writes the expansion of its runs from the current polarity, cut off at CAPACITY;
TOT counts every module, dropped or not; POL flips once per run. -/
def Obligations.AppendSymbolWritesExpansion : Prop :=
  ∀ (capacity : Nat) (w : List Nat) (p : Packer), p.wp = p.cells.length → p.wp ≤ capacity →
    (appendSymbol capacity w p).cells = (p.cells ++ expand w p.pol).take capacity ∧
    (appendSymbol capacity w p).wp = min (p.wp + w.sum) capacity ∧
    (appendSymbol capacity w p).tot = p.tot + w.sum ∧
    (appendSymbol capacity w p).pol = (if w.length % 2 = 0 then p.pol else !p.pol) ∧
    (expand w p.pol).length = w.sum

/-- R142, R145: the accumulator that the sequencer's loop leaves, reduced, is the closed form of the weighted positional
sum, in every state. -/
def Obligations.ChecksumHasClosedForm : Prop :=
  ∀ (s : State) (p : Packer),
    checksumFinal (encodePairs s (s.inlen.toNat / 2) 1 ⟨p, checksumInit⟩).acc = checksumOf (inputSymbols s) ∧
    checksumOf (inputSymbols s) ≤ 102

/-! ENCODE (43_encode.md). -/

/-- R214 (with R161, R162, R166): the one RESULT an ENCODE writes, in its priority, from every state. -/
def Obligations.EncodeResultPriority : Prop :=
  ∀ (s : State) (v : Byte), ∃ t, exec (.encode v) s = .next t ∧
    (s.params.maxInputLen < s.inlen.toNat → t.status.result = .inputOverrun) ∧
    (s.inlen.toNat ≤ s.params.maxInputLen → ¬ ValidInput s → t.status.result = .invalidInput) ∧
    (s.inlen.toNat ≤ s.params.maxInputLen → ValidInput s →
      (s.params.capacity < 35 + 11 * (s.inlen.toNat / 2) → t.status.result = .truncated) ∧
      (35 + 11 * (s.inlen.toNat / 2) ≤ s.params.capacity → t.status.result = .ok))

/-- R126, R127, R163 to R166: from every state with legal parameters and a valid input that fits INBUF,
ENCODE leaves in BAR the first CAPACITY modules of START-C, the digit pairs, the checksum symbol and STOP, with LENGTH,
RESULT and CHKSUM as the rules say. -/
def Obligations.EncodeStoresBarcodeOfInput : Prop :=
  ∀ (s : State) (v : Byte), s.params.Legal → s.inlen.toNat ≤ s.params.maxInputLen → ValidInput s →
    ∃ t, exec (.encode v) s = .next t ∧
      (fullStream (inputSymbols s)).length = 35 + 11 * (s.inlen.toNat / 2) ∧
      (encodeSymbols s).1.tot = (fullStream (inputSymbols s)).length ∧
      t.barLength.toNat = min (35 + 11 * (s.inlen.toNat / 2)) s.params.capacity ∧
      (∀ i, i < t.barLength.toNat → t.barCell i = (fullStream (inputSymbols s))[i]?) ∧
      t.chksum = 0x80000000#32 + BitVec.ofNat 32 (checksumOf (inputSymbols s)) ∧
      t.status.result = (if 35 + 11 * (s.inlen.toNat / 2) ≤ s.params.capacity then .ok else .truncated)

/-- R161, R162, R167: an ENCODE of an overlong, odd or non-digit input leaves LENGTH = 0, CHKSUM = 0 and the code, and
every BAR read after it returns 0. -/
def Obligations.FailedEncodeEmptiesBarcode : Prop :=
  ∀ (s : State) (v : Byte), s.params.maxInputLen < s.inlen.toNat ∨ ¬ ValidInput s →
    ∃ t, exec (.encode v) s = .next t ∧ t.barLength = 0#13 ∧ t.chksum = 0#32 ∧
      t.status.result = (if s.params.maxInputLen < s.inlen.toNat then .inputOverrun else .invalidInput) ∧
      ∀ (i : Index) (x : Word), ∃ u, exec (.rdBar i x) t = .next u ∧ u.returned = some 0#32

/-- R171: ENCODE writes neither INBUF, INLEN, LKUP, STATUS bits 10:8, CAP nor MAXIN; it returns nothing. -/
def Obligations.EncodeLeavesInputAndStickyBits : Prop :=
  ∀ (s : State) (v : Byte), ∃ t, exec (.encode v) s = .next t ∧ t.returned = none ∧
    (∀ k, t.inbufCell k = s.inbufCell k) ∧ t.inlen = s.inlen ∧ t.lkup = s.lkup ∧
    (∀ c, t.status.sticky c = s.status.sticky c) ∧ t.params = s.params ∧ t.resets = s.resets ∧ t.pending = s.pending

/-- R169: what ENCODE leaves in LENGTH, BAR[0..LENGTH), RESULT and CHKSUM depends on INLEN, INBUF[0..INLEN) and the
parameters only. -/
def Obligations.EncodeDependsOnInputOnly : Prop :=
  ∀ (s s' t t' : State) (v v' : Byte), s'.params = s.params → s'.inlen = s.inlen →
    (∀ k, k < s.inlen.toNat → s'.inbufByte k = s.inbufByte k) →
    exec (.encode v) s = .next t → exec (.encode v') s' = .next t' →
    t'.barLength = t.barLength ∧ t'.status.result = t.status.result ∧ t'.chksum = t.chksum ∧
      ∀ i, i < t.barLength.toNat → t'.barCell i = t.barCell i

/-- R124, R128, R172: after an ENCODE of a valid input, and after one that ends OK or TRUNCATED, with legal parameters the
barcode is not empty and its first module is a bar; where it is whole its last module is a bar; an ENCODE never leaves LENGTH above CAPACITY; and an invalid input leaves it
empty. -/
def Obligations.BarcodeStartsAndEndsOnBar : Prop :=
  ∀ (s t : State) (v : Byte), s.params.Legal → exec (.encode v) s = .next t →
    t.barLength.toNat ≤ t.params.capacity ∧
    (s.inlen.toNat ≤ s.params.maxInputLen → ValidInput s →
      1 ≤ t.barLength.toNat ∧ t.barLength.toNat = min (35 + 11 * (s.inlen.toNat / 2)) s.params.capacity ∧
      t.barCell 0 = some true) ∧
    (t.status.result = .ok ∨ t.status.result = .truncated → 1 ≤ t.barLength.toNat ∧ t.barCell 0 = some true) ∧
    (WholeBarcode t → t.barCell (t.barLength.toNat - 1) = some true) ∧
    (¬ ValidInput s → t.barLength = 0#13)

/-! The host's duty. -/

/-- R241, R246, D17: a transaction in which the host keeps its duty does not depend on any unspecified cell: changing
the reset counter that picks the free contents changes nothing else; and it leaves STATUS without sticky bits if it had
none. That INBUF's free bytes are picked by a counter is the model's choice (log 5, log 6). -/
def Obligations.DutifulHostNeverSeesUnspecifiedCells : Prop :=
  ∀ (s t : State) (i : Instr) (r : Nat), s.Inv → HostDuty i s → exec i s = .next t →
    exec i { s with resets := r } = .next { t with resets := r } ∧ (CleanStatus s → CleanStatus t)
end

