-- ==== Sys2Proof/Laws/Decode.lean ====
section
/-! SUPPORT. The fields of a transaction that the encoder builds, and of the words and addresses inside it. -/

namespace Sys2Proof

@[simp] theorem transactionData_transaction (rw : Direction) (a : Addr) (d : Word) :
    transactionData (transaction rw a d) = d := by
  unfold transactionData transaction
  ext i h
  simp [show i < 48 by omega, h]
  omega

@[simp] theorem transactionAddr_transaction (rw : Direction) (a : Addr) (d : Word) :
    transactionAddr (transaction rw a d) = a := by
  unfold transactionAddr transaction
  ext i h
  simp [show 32 + i < 48 by omega, show 32 + i < 49 by omega, BitVec.getLsbD_eq_getElem h]

@[simp] theorem transactionDirection_transaction (rw : Direction) (a : Addr) (d : Word) :
    transactionDirection (transaction rw a d) = rw := by
  unfold transactionDirection transaction
  cases rw <;> simp [directionBit]

/-- A transaction is its three fields (R70). -/
theorem transaction_fields (t : Transaction) :
    transaction (transactionDirection t) (transactionAddr t) (transactionData t) = t := by
  have hb : directionBit (transactionDirection t) = t.getLsbD 48 := by
    unfold transactionDirection; cases t.getLsbD 48 <;> rfl
  unfold transaction transactionAddr transactionData
  rw [hb]
  ext i h
  rcases Nat.lt_or_ge i 32 with h1 | h1
  · simp [h1, show i < 48 by omega, BitVec.getLsbD_eq_getElem h]
  · rcases Nat.lt_or_ge i 48 with h2 | h2
    · simp [h2, show ¬ i < 32 by omega, show i - 32 < 16 by omega, show 32 + (i - 32) = i by omega,
        BitVec.getLsbD_eq_getElem h]
    · obtain rfl : i = 48 := by omega
      simp

/-- Two transactions with the same three fields are the same. -/
theorem transaction_ext {t u : Transaction} (hr : transactionDirection t = transactionDirection u)
    (ha : transactionAddr t = transactionAddr u) (hd : transactionData t = transactionData u) : t = u := by
  rw [← transaction_fields t, ← transaction_fields u, hr, ha, hd]

theorem windowAddr_window (w : BitVec 4) (k : Index) : (windowAddr w k).extractLsb' 12 4 = w := by
  unfold windowAddr
  ext i h
  simp [h, show 12 + i < 16 by omega]

theorem windowAddr_index (w : BitVec 4) (k : Index) : (windowAddr w k).extractLsb' 0 12 = k := by
  unfold windowAddr
  ext i h
  simp [h, show i < 16 by omega]

/-- An address is its window number and its index (R71). -/
theorem windowAddr_fields (a : Addr) : windowAddr (a.extractLsb' 12 4) (a.extractLsb' 0 12) = a := by
  unfold windowAddr
  ext i h
  rcases Nat.lt_or_ge i 12 with h1 | h1
  · simp [h1, BitVec.getLsbD_eq_getElem h]
  · simp [show ¬ i < 12 by omega, show i - 12 < 4 by omega, show 12 + (i - 12) = i by omega,
      BitVec.getLsbD_eq_getElem h]

theorem commandWord_operand (op : BitVec 4) (v : Byte) : commandOperand (commandWord op v) = v := by
  unfold commandOperand commandWord
  ext i h
  simp [BitVec.getLsbD_of_ge op (8 + i) (by omega), show 8 + i < 32 by omega, BitVec.getLsbD_eq_getElem h]

/-- The masked command word is OP alone: V and nothing else is left out (R72, R78). -/
theorem commandWord_masked (op : BitVec 4) (v : Byte) : commandWord op v &&& 0xFFFF00FF#32 = op.setWidth 32 := by
  have h : ∀ i : Fin 32, ((0xFFFF00FF#32 : Word).getLsbD i = (decide (i.1 < 8) || decide (16 ≤ i.1))) := by decide
  unfold commandWord
  ext i hi
  have h' := h ⟨i, hi⟩
  simp only [BitVec.getElem_and, BitVec.getElem_or, BitVec.getElem_shiftLeft, BitVec.getElem_setWidth]
  rw [← BitVec.getLsbD_eq_getElem hi, h']
  rcases Nat.lt_or_ge i 8 with h1 | h1
  · simp [h1]
  · rcases Nat.lt_or_ge i 16 with h2 | h2
    · simp [show ¬ i < 8 by omega, show ¬ 16 ≤ i by omega, BitVec.getLsbD_of_ge op i (by omega)]
    · simp [show ¬ i < 8 by omega, h2, BitVec.getLsbD_of_ge v (i - 8) (by omega)]

/-- The address decode of a window address. -/
theorem addressRegion_inbuf (k : Index) : addressRegion (windowAddr 0x1#4 k) = .inbuf k := by
  simp [addressRegion, windowAddr_window, windowAddr_index]

theorem addressRegion_bar (i : Index) : addressRegion (windowAddr 0x2#4 i) = .bar i := by
  simp [addressRegion, windowAddr_window, windowAddr_index]

theorem addressRegion_config (g : ConfigTarget) : addressRegion (configAddr g) = .config g := by
  cases g <;> decide

/-- A reserved address selects nothing (R71, R76). -/
theorem addressRegion_reserved {a : Addr} (h : isReservedAddr a = true) : addressRegion a = .reserved := by
  have h' : (8 ≤ a.toNat ∧ a.toNat ≤ 0xFFF) ∨ 0x3000 ≤ a.toNat := by simpa [isReservedAddr] using h
  have hw : (a.extractLsb' 12 4).toNat = a.toNat / 4096 % 16 := by
    simp [BitVec.extractLsb'_toNat, Nat.shiftRight_eq_div_pow]
  have := a.isLt
  have n1 : ¬ a.extractLsb' 12 4 = 0x1#4 := fun e => by rw [e] at hw; simp at hw; omega
  have n2 : ¬ a.extractLsb' 12 4 = 0x2#4 := fun e => by rw [e] at hw; simp at hw; omega
  have ne : ∀ n, n < 8 → ¬ a = BitVec.ofNat 16 n := fun n hn e => by
    subst e; simp at h'; omega
  unfold addressRegion
  simp only [n1, n2, if_false, ne 0 (by omega), ne 1 (by omega), ne 2 (by omega), ne 3 (by omega), ne 4 (by omega), ne 5 (by omega), ne 6 (by omega), ne 7 (by omega)]

/-- The mask 0xFFFF00FF keeps OP and the two reserved fields and drops V (R72). -/
theorem commandWord_mask (d : Word) : d &&& 0xFFFF00FF#32 = 
   (d.extractLsb' 16 16).setWidth 32 <<< 16 ||| (d.extractLsb' 4 4).setWidth 32 <<< 4 ||| (d.extractLsb' 0 4).setWidth 32 := by
  have h : ∀ i : Fin 32, ((0xFFFF00FF#32 : Word).getLsbD i = (decide (i.1 < 8) || decide (16 ≤ i.1))) := by decide
  ext i hi
  have h' := h ⟨i, hi⟩
  rw [BitVec.getElem_and, ← BitVec.getLsbD_eq_getElem (x := 0xFFFF00FF#32) hi, h']
  rcases Nat.lt_or_ge i 4 with h0 | h0
  · simp [h0, show i < 16 by omega, show i < 8 by omega, BitVec.getLsbD_eq_getElem hi]
  rcases Nat.lt_or_ge i 8 with h1 | h1
  · simp [h1, show i < 16 by omega, show ¬ i < 4 by omega, show i - 4 < 4 by omega, show 4 + (i-4) = i by omega,BitVec.getLsbD_eq_getElem hi]
  rcases Nat.lt_or_ge i 16 with h2 | h2
  · simp [h2, show ¬ i < 8 by omega, show ¬ i < 4 by omega, show ¬ i - 4 < 4 by omega, show ¬ 16 ≤ i by omega]
  · simp [h2, show ¬ i < 8 by omega, show ¬ i < 16 by omega, show ¬ i < 4 by omega, show ¬ i - 4 < 4 by omega,show i - 16 < 16 by omega, show 16 + (i-16) = i by omega, BitVec.getLsbD_eq_getElem hi]

/-- What the masked comparison of R78 says of the fields of R72. -/
theorem masked_eq_iff (d : Word) (op : BitVec 4) : d &&& 0xFFFF00FF#32 = op.setWidth 32 ↔ 
   d.extractLsb' 0 4 = op ∧ d.extractLsb' 4 4 = 0#4 ∧ d.extractLsb' 16 16 = 0#16 := by
  rw [commandWord_mask]
  constructor
  · intro h
    have g : ∀ i, i < 32 → _ := fun i hi => congrArg (fun x => BitVec.getLsbD x i) h
    refine ⟨?_, ?_, ?_⟩
    · ext i hi
      have := g i (by omega)
      simp [hi, show i < 16 by omega, show i < 32 by omega] at this
      simpa [show i < 32 by omega] using this
    · ext i hi
      have := g (4+i) (by omega)
      simp [hi, show 4 + i < 16 by omega, show 4+i < 32 by omega] at this
      simpa [show 4+i < 32 by omega] using this
    · ext i hi
      have := g (16+i) (by omega)
      simp [hi, show 16 + i < 32 by omega, show ¬ 16 + i < 4 by omega, show ¬ 16 + i - 4 < 4 by omega, BitVec.getLsbD_of_ge op (16+i) (by omega)] at this
      simpa [show 16+i < 32 by omega] using this
  · rintro ⟨h1, h2, h3⟩
    rw [h1, h2, h3]; simp

/-- A reserved command word selects no command (R75). -/
theorem decodeCommand_reserved {d : Word} (h : isReservedCommand d = true) : decodeCommand d = .cmdReserved d := by
  unfold decodeCommand
  have m0 := masked_eq_iff d 0
  have m1 := masked_eq_iff d 1
  have m2 := masked_eq_iff d 2
  simp only [isReservedCommand, Bool.or_eq_true, decide_eq_true_eq, bne_iff_ne, ne_eq] at h
  rw [if_neg, if_neg, if_neg]
  · intro e; obtain ⟨a,b,c⟩ := m2.1 e; rw [a,b,c] at h; revert h; decide
  · intro e; obtain ⟨a,b,c⟩ := m1.1 e; rw [a,b,c] at h; revert h; decide
  · intro e; obtain ⟨a,b,c⟩ := m0.1 e; rw [a,b,c] at h; revert h; decide

/-- Every address is the address of what it selects (R71). -/
theorem addressRegion_spec (a : Addr) : (match addressRegion a with
  | .cmd => 0#16 | .status => 1#16 | .barCount => 2#16 | .inlen => 3#16 | .config g => configAddr g
  | .inbuf k => windowAddr 1#4 k | .bar k => windowAddr 2#4 k | .reserved => a) = a := by
  unfold addressRegion
  by_cases w1 : a.extractLsb' 12 4 = 0x1#4
  · rw [if_pos w1]; simp only; rw [← w1]; exact windowAddr_fields a
  by_cases w2 : a.extractLsb' 12 4 = 0x2#4
  · rw [if_neg w1, if_pos w2]; simp only; rw [← w2]; exact windowAddr_fields a
  rw [if_neg w1, if_neg w2]
  by_cases h0 : a = 0#16
  · rw [if_pos h0]; exact h0.symm
  rw [if_neg h0]
  by_cases h1 : a = 1#16
  · rw [if_pos h1]; exact h1.symm
  rw [if_neg h1]
  by_cases h2 : a = 2#16
  · rw [if_pos h2]; exact h2.symm
  rw [if_neg h2]
  by_cases h3 : a = 3#16
  · rw [if_pos h3]; exact h3.symm
  rw [if_neg h3]
  by_cases h4 : a = 4#16
  · rw [if_pos h4]; exact h4.symm
  rw [if_neg h4]
  by_cases h5 : a = 5#16
  · rw [if_pos h5]; exact h5.symm
  rw [if_neg h5]
  by_cases h6 : a = 6#16
  · rw [if_pos h6]; exact h6.symm
  rw [if_neg h6]
  by_cases h7 : a = 7#16
  · rw [if_pos h7]; exact h7.symm
  rw [if_neg h7]

/-- An address that selects nothing is one of R76. -/
theorem isReservedAddr_of_region {a : Addr} (h : addressRegion a = .reserved) : isReservedAddr a = true := by
  by_contra hn
  have h' : ¬ ((8 ≤ a.toNat ∧ a.toNat ≤ 0xFFF) ∨ 0x3000 ≤ a.toNat) := by simpa [isReservedAddr] using hn
  have hw : (a.extractLsb' 12 4).toNat = a.toNat / 4096 % 16 := by
    simp [BitVec.extractLsb'_toNat, Nat.shiftRight_eq_div_pow]
  have := a.isLt
  rcases (show a.toNat < 8 ∨ (4096 ≤ a.toNat ∧ a.toNat < 8192) ∨ (8192 ≤ a.toNat ∧ a.toNat < 12288) by omega) with h1 | h1 | h1
  · have : ∀ n, n < 8 → addressRegion (BitVec.ofNat 16 n) ≠ .reserved := by decide
    exact this _ h1 (by simpa using h)
  · have : a.extractLsb' 12 4 = 0x1#4 := by apply BitVec.eq_of_toNat_eq; rw [hw]; simp; omega
    simp [addressRegion, this] at h
  · have : a.extractLsb' 12 4 = 0x2#4 := by apply BitVec.eq_of_toNat_eq; rw [hw]; simp; omega
    simp [addressRegion, this] at h

/-- What decoding a command word keeps of it. -/
theorem decodeCommand_spec (d : Word) : (decodeCommand d).wf = true ∧ encodeInstr (decodeCommand d) = transaction .write 0#16 d := by
  have m := fun op => masked_eq_iff d op
  have hd : ∀ op, d.extractLsb' 0 4 = op → d.extractLsb' 4 4 = 0#4 → d.extractLsb' 16 16 = 0#16 → commandWord op (commandOperand d) = d := by
    intro op h1 h2 h3
    rw [← h1]
    ext i hi
    unfold commandWord commandOperand
    rcases Nat.lt_or_ge i 4 with h | h
    · simp [h, show i < 8 by omega, BitVec.getLsbD_eq_getElem hi]
    rcases Nat.lt_or_ge i 8 with h' | h'
    · have := congrArg (fun x => BitVec.getLsbD x (i-4)) h2
      simp [show i - 4 < 4 by omega, show 4 + (i-4) = i by omega, BitVec.getLsbD_eq_getElem hi] at this
      simp [h', show ¬ i < 4 by omega, this]
    rcases Nat.lt_or_ge i 16 with h'' | h''
    · simp [show ¬ i < 8 by omega, show ¬ i < 4 by omega, show i - 8 < 8 by omega, show 8 + (i-8) = i by omega, BitVec.getLsbD_eq_getElem hi]
    · have := congrArg (fun x => BitVec.getLsbD x (i-16)) h3
      simp [show i - 16 < 16 by omega, show 16 + (i-16) = i by omega, BitVec.getLsbD_eq_getElem hi] at this
      simp [show ¬ i < 8 by omega, show ¬ i < 4 by omega, show ¬ i - 8 < 8 by omega, this]
  unfold decodeCommand
  split
  · rename_i h; obtain ⟨a,b,c⟩ := (m 0).1 h; exact ⟨rfl, by simp [encodeInstr, hd 0#4 a b c]⟩
  split
  · rename_i h; obtain ⟨a,b,c⟩ := (m 1).1 h; exact ⟨rfl, by simp [encodeInstr, hd 1#4 a b c]⟩
  split
  · rename_i h; obtain ⟨a,b,c⟩ := (m 2).1 h; exact ⟨rfl, by simp [encodeInstr, hd 2#4 a b c]⟩
  · rename_i h0 h1 h2
    refine ⟨?_, rfl⟩
    simp only [Instr.wf, isReservedCommand, Bool.or_eq_true, decide_eq_true_eq, bne_iff_ne, ne_eq]
    by_contra hn
    have e : d.extractLsb' 4 4 = 0#4 := by by_contra; simp_all
    have e' : d.extractLsb' 16 16 = 0#16 := by by_contra; simp_all
    have lt : (d.extractLsb' 0 4).toNat < 3 := by by_contra; simp_all
    rcases (show (d.extractLsb' 0 4).toNat = 0 ∨ (d.extractLsb' 0 4).toNat = 1 ∨ (d.extractLsb' 0 4).toNat = 2 by omega) with h | h | h
    · exact h0 ((m 0).2 ⟨BitVec.eq_of_toNat_eq h, e, e'⟩)
    · exact h1 ((m 1).2 ⟨BitVec.eq_of_toNat_eq h, e, e'⟩)
    · exact h2 ((m 2).2 ⟨BitVec.eq_of_toNat_eq h, e, e'⟩)

/-- The decoder on a transaction given by its fields. -/
theorem decode_transaction (rw : Direction) (a : Addr) (d : Word) : decode (transaction rw a d) = match rw, addressRegion a with
  | .write, .cmd => decodeCommand d
  | .read, .cmd => .rdCmd d
  | .read, .status => .rdStatus d
  | .write, .status => .wrStatus d
  | .read, .barCount => .rdBarCount d
  | .write, .barCount => .wrRoBarCount d
  | .read, .inlen => .rdInlen d
  | .write, .inlen => .wrInlen d
  | .read, .config target => decodeConfigRead target d
  | .write, .config target => .wrRoConfig target d
  | .read, .inbuf k => .rdInbuf k d
  | .write, .inbuf k => .wrInbuf k d
  | .read, .bar i => .rdBar i d
  | .write, .bar i => .wrRoBar i d
  | rw, .reserved => .reservedAccess rw a d := by
  cases rw <;> cases h : addressRegion a <;>
    simp [decode, transactionAddr_transaction, transactionData_transaction, transactionDirection_transaction, h]

end Sys2Proof
end

