-- ==== Sys2Proof/Laws/State.lean ====
section
/-! SUPPORT. One lemma per field per update of the state, true by rfl. -/

namespace Sys2Proof.Machine

@[simp] theorem State.setStatus_params (st : Status) (s : State) : (s.setStatus st).params = s.params := rfl
@[simp] theorem State.setStatus_status (st : Status) (s : State) : (s.setStatus st).status = st := rfl
@[simp] theorem State.setStatus_barLength (st : Status) (s : State) : (s.setStatus st).barLength = s.barLength := rfl
@[simp] theorem State.setStatus_inlen (st : Status) (s : State) : (s.setStatus st).inlen = s.inlen := rfl
@[simp] theorem State.setStatus_lkup (st : Status) (s : State) : (s.setStatus st).lkup = s.lkup := rfl
@[simp] theorem State.setStatus_chksum (st : Status) (s : State) : (s.setStatus st).chksum = s.chksum := rfl
@[simp] theorem State.setStatus_inbuf (st : Status) (s : State) : (s.setStatus st).inbuf = s.inbuf := rfl
@[simp] theorem State.setStatus_bar (st : Status) (s : State) : (s.setStatus st).bar = s.bar := rfl
@[simp] theorem State.setStatus_resets (st : Status) (s : State) : (s.setStatus st).resets = s.resets := rfl
@[simp] theorem State.setStatus_pending (st : Status) (s : State) : (s.setStatus st).pending = s.pending := rfl
@[simp] theorem State.setStatus_returned (st : Status) (s : State) : (s.setStatus st).returned = s.returned := rfl

@[simp] theorem State.setResult_params (r : Result) (s : State) : (s.setResult r).params = s.params := rfl
@[simp] theorem State.setResult_status (r : Result) (s : State) : (s.setResult r).status = { s.status with result := r } := rfl
@[simp] theorem State.setResult_barLength (r : Result) (s : State) : (s.setResult r).barLength = s.barLength := rfl
@[simp] theorem State.setResult_inlen (r : Result) (s : State) : (s.setResult r).inlen = s.inlen := rfl
@[simp] theorem State.setResult_lkup (r : Result) (s : State) : (s.setResult r).lkup = s.lkup := rfl
@[simp] theorem State.setResult_chksum (r : Result) (s : State) : (s.setResult r).chksum = s.chksum := rfl
@[simp] theorem State.setResult_inbuf (r : Result) (s : State) : (s.setResult r).inbuf = s.inbuf := rfl
@[simp] theorem State.setResult_bar (r : Result) (s : State) : (s.setResult r).bar = s.bar := rfl
@[simp] theorem State.setResult_resets (r : Result) (s : State) : (s.setResult r).resets = s.resets := rfl
@[simp] theorem State.setResult_pending (r : Result) (s : State) : (s.setResult r).pending = s.pending := rfl
@[simp] theorem State.setResult_returned (r : Result) (s : State) : (s.setResult r).returned = s.returned := rfl

@[simp] theorem State.setInlen_params (n : BitVec 16) (s : State) : (s.setInlen n).params = s.params := rfl
@[simp] theorem State.setInlen_status (n : BitVec 16) (s : State) : (s.setInlen n).status = s.status := rfl
@[simp] theorem State.setInlen_barLength (n : BitVec 16) (s : State) : (s.setInlen n).barLength = s.barLength := rfl
@[simp] theorem State.setInlen_inlen (n : BitVec 16) (s : State) : (s.setInlen n).inlen = n := rfl
@[simp] theorem State.setInlen_lkup (n : BitVec 16) (s : State) : (s.setInlen n).lkup = s.lkup := rfl
@[simp] theorem State.setInlen_chksum (n : BitVec 16) (s : State) : (s.setInlen n).chksum = s.chksum := rfl
@[simp] theorem State.setInlen_inbuf (n : BitVec 16) (s : State) : (s.setInlen n).inbuf = s.inbuf := rfl
@[simp] theorem State.setInlen_bar (n : BitVec 16) (s : State) : (s.setInlen n).bar = s.bar := rfl
@[simp] theorem State.setInlen_resets (n : BitVec 16) (s : State) : (s.setInlen n).resets = s.resets := rfl
@[simp] theorem State.setInlen_pending (n : BitVec 16) (s : State) : (s.setInlen n).pending = s.pending := rfl
@[simp] theorem State.setInlen_returned (n : BitVec 16) (s : State) : (s.setInlen n).returned = s.returned := rfl

@[simp] theorem State.setLkup_params (w : Word) (s : State) : (s.setLkup w).params = s.params := rfl
@[simp] theorem State.setLkup_status (w : Word) (s : State) : (s.setLkup w).status = s.status := rfl
@[simp] theorem State.setLkup_barLength (w : Word) (s : State) : (s.setLkup w).barLength = s.barLength := rfl
@[simp] theorem State.setLkup_inlen (w : Word) (s : State) : (s.setLkup w).inlen = s.inlen := rfl
@[simp] theorem State.setLkup_lkup (w : Word) (s : State) : (s.setLkup w).lkup = w := rfl
@[simp] theorem State.setLkup_chksum (w : Word) (s : State) : (s.setLkup w).chksum = s.chksum := rfl
@[simp] theorem State.setLkup_inbuf (w : Word) (s : State) : (s.setLkup w).inbuf = s.inbuf := rfl
@[simp] theorem State.setLkup_bar (w : Word) (s : State) : (s.setLkup w).bar = s.bar := rfl
@[simp] theorem State.setLkup_resets (w : Word) (s : State) : (s.setLkup w).resets = s.resets := rfl
@[simp] theorem State.setLkup_pending (w : Word) (s : State) : (s.setLkup w).pending = s.pending := rfl
@[simp] theorem State.setLkup_returned (w : Word) (s : State) : (s.setLkup w).returned = s.returned := rfl

@[simp] theorem State.setChksum_params (w : Word) (s : State) : (s.setChksum w).params = s.params := rfl
@[simp] theorem State.setChksum_status (w : Word) (s : State) : (s.setChksum w).status = s.status := rfl
@[simp] theorem State.setChksum_barLength (w : Word) (s : State) : (s.setChksum w).barLength = s.barLength := rfl
@[simp] theorem State.setChksum_inlen (w : Word) (s : State) : (s.setChksum w).inlen = s.inlen := rfl
@[simp] theorem State.setChksum_lkup (w : Word) (s : State) : (s.setChksum w).lkup = s.lkup := rfl
@[simp] theorem State.setChksum_chksum (w : Word) (s : State) : (s.setChksum w).chksum = w := rfl
@[simp] theorem State.setChksum_inbuf (w : Word) (s : State) : (s.setChksum w).inbuf = s.inbuf := rfl
@[simp] theorem State.setChksum_bar (w : Word) (s : State) : (s.setChksum w).bar = s.bar := rfl
@[simp] theorem State.setChksum_resets (w : Word) (s : State) : (s.setChksum w).resets = s.resets := rfl
@[simp] theorem State.setChksum_pending (w : Word) (s : State) : (s.setChksum w).pending = s.pending := rfl
@[simp] theorem State.setChksum_returned (w : Word) (s : State) : (s.setChksum w).returned = s.returned := rfl

@[simp] theorem State.setBarStore_params (cells : List Bool) (len : BitVec 13) (s : State) : (s.setBarStore cells len).params = s.params := rfl
@[simp] theorem State.setBarStore_status (cells : List Bool) (len : BitVec 13) (s : State) : (s.setBarStore cells len).status = s.status := rfl
@[simp] theorem State.setBarStore_barLength (cells : List Bool) (len : BitVec 13) (s : State) : (s.setBarStore cells len).barLength = len := rfl
@[simp] theorem State.setBarStore_inlen (cells : List Bool) (len : BitVec 13) (s : State) : (s.setBarStore cells len).inlen = s.inlen := rfl
@[simp] theorem State.setBarStore_lkup (cells : List Bool) (len : BitVec 13) (s : State) : (s.setBarStore cells len).lkup = s.lkup := rfl
@[simp] theorem State.setBarStore_chksum (cells : List Bool) (len : BitVec 13) (s : State) : (s.setBarStore cells len).chksum = s.chksum := rfl
@[simp] theorem State.setBarStore_inbuf (cells : List Bool) (len : BitVec 13) (s : State) : (s.setBarStore cells len).inbuf = s.inbuf := rfl
@[simp] theorem State.setBarStore_bar (cells : List Bool) (len : BitVec 13) (s : State) : (s.setBarStore cells len).bar = cells := rfl
@[simp] theorem State.setBarStore_resets (cells : List Bool) (len : BitVec 13) (s : State) : (s.setBarStore cells len).resets = s.resets := rfl
@[simp] theorem State.setBarStore_pending (cells : List Bool) (len : BitVec 13) (s : State) : (s.setBarStore cells len).pending = s.pending := rfl
@[simp] theorem State.setBarStore_returned (cells : List Bool) (len : BitVec 13) (s : State) : (s.setBarStore cells len).returned = s.returned := rfl

@[simp] theorem State.setInbuf_params (m : Memory) (s : State) : (s.setInbuf m).params = s.params := rfl
@[simp] theorem State.setInbuf_status (m : Memory) (s : State) : (s.setInbuf m).status = s.status := rfl
@[simp] theorem State.setInbuf_barLength (m : Memory) (s : State) : (s.setInbuf m).barLength = s.barLength := rfl
@[simp] theorem State.setInbuf_inlen (m : Memory) (s : State) : (s.setInbuf m).inlen = s.inlen := rfl
@[simp] theorem State.setInbuf_lkup (m : Memory) (s : State) : (s.setInbuf m).lkup = s.lkup := rfl
@[simp] theorem State.setInbuf_chksum (m : Memory) (s : State) : (s.setInbuf m).chksum = s.chksum := rfl
@[simp] theorem State.setInbuf_inbuf (m : Memory) (s : State) : (s.setInbuf m).inbuf = m := rfl
@[simp] theorem State.setInbuf_bar (m : Memory) (s : State) : (s.setInbuf m).bar = s.bar := rfl
@[simp] theorem State.setInbuf_resets (m : Memory) (s : State) : (s.setInbuf m).resets = s.resets := rfl
@[simp] theorem State.setInbuf_pending (m : Memory) (s : State) : (s.setInbuf m).pending = s.pending := rfl
@[simp] theorem State.setInbuf_returned (m : Memory) (s : State) : (s.setInbuf m).returned = s.returned := rfl

@[simp] theorem State.setReturned_params (r : Option Word) (s : State) : (s.setReturned r).params = s.params := rfl
@[simp] theorem State.setReturned_status (r : Option Word) (s : State) : (s.setReturned r).status = s.status := rfl
@[simp] theorem State.setReturned_barLength (r : Option Word) (s : State) : (s.setReturned r).barLength = s.barLength := rfl
@[simp] theorem State.setReturned_inlen (r : Option Word) (s : State) : (s.setReturned r).inlen = s.inlen := rfl
@[simp] theorem State.setReturned_lkup (r : Option Word) (s : State) : (s.setReturned r).lkup = s.lkup := rfl
@[simp] theorem State.setReturned_chksum (r : Option Word) (s : State) : (s.setReturned r).chksum = s.chksum := rfl
@[simp] theorem State.setReturned_inbuf (r : Option Word) (s : State) : (s.setReturned r).inbuf = s.inbuf := rfl
@[simp] theorem State.setReturned_bar (r : Option Word) (s : State) : (s.setReturned r).bar = s.bar := rfl
@[simp] theorem State.setReturned_resets (r : Option Word) (s : State) : (s.setReturned r).resets = s.resets := rfl
@[simp] theorem State.setReturned_pending (r : Option Word) (s : State) : (s.setReturned r).pending = s.pending := rfl
@[simp] theorem State.setReturned_returned (r : Option Word) (s : State) : (s.setReturned r).returned = r := rfl

@[simp] theorem State.setPending_params (es : List HostEvent) (s : State) : (s.setPending es).params = s.params := rfl
@[simp] theorem State.setPending_status (es : List HostEvent) (s : State) : (s.setPending es).status = s.status := rfl
@[simp] theorem State.setPending_barLength (es : List HostEvent) (s : State) : (s.setPending es).barLength = s.barLength := rfl
@[simp] theorem State.setPending_inlen (es : List HostEvent) (s : State) : (s.setPending es).inlen = s.inlen := rfl
@[simp] theorem State.setPending_lkup (es : List HostEvent) (s : State) : (s.setPending es).lkup = s.lkup := rfl
@[simp] theorem State.setPending_chksum (es : List HostEvent) (s : State) : (s.setPending es).chksum = s.chksum := rfl
@[simp] theorem State.setPending_inbuf (es : List HostEvent) (s : State) : (s.setPending es).inbuf = s.inbuf := rfl
@[simp] theorem State.setPending_bar (es : List HostEvent) (s : State) : (s.setPending es).bar = s.bar := rfl
@[simp] theorem State.setPending_resets (es : List HostEvent) (s : State) : (s.setPending es).resets = s.resets := rfl
@[simp] theorem State.setPending_pending (es : List HostEvent) (s : State) : (s.setPending es).pending = es := rfl
@[simp] theorem State.setPending_returned (es : List HostEvent) (s : State) : (s.setPending es).returned = s.returned := rfl

@[simp] theorem State.raise_params (c : Condition) (s : State) : (s.raise c).params = s.params := rfl
@[simp] theorem State.raise_status (c : Condition) (s : State) : (s.raise c).status = s.status.raise c := rfl
@[simp] theorem State.raise_barLength (c : Condition) (s : State) : (s.raise c).barLength = s.barLength := rfl
@[simp] theorem State.raise_inlen (c : Condition) (s : State) : (s.raise c).inlen = s.inlen := rfl
@[simp] theorem State.raise_lkup (c : Condition) (s : State) : (s.raise c).lkup = s.lkup := rfl
@[simp] theorem State.raise_chksum (c : Condition) (s : State) : (s.raise c).chksum = s.chksum := rfl
@[simp] theorem State.raise_inbuf (c : Condition) (s : State) : (s.raise c).inbuf = s.inbuf := rfl
@[simp] theorem State.raise_bar (c : Condition) (s : State) : (s.raise c).bar = s.bar := rfl
@[simp] theorem State.raise_resets (c : Condition) (s : State) : (s.raise c).resets = s.resets := rfl
@[simp] theorem State.raise_pending (c : Condition) (s : State) : (s.raise c).pending = s.pending := rfl
@[simp] theorem State.raise_returned (c : Condition) (s : State) : (s.raise c).returned = s.returned := rfl

@[simp] theorem State.writeInbuf_params (k : Nat) (b : Byte) (s : State) : (s.writeInbuf k b).params = s.params := rfl
@[simp] theorem State.writeInbuf_status (k : Nat) (b : Byte) (s : State) : (s.writeInbuf k b).status = s.status := rfl
@[simp] theorem State.writeInbuf_barLength (k : Nat) (b : Byte) (s : State) : (s.writeInbuf k b).barLength = s.barLength := rfl
@[simp] theorem State.writeInbuf_inlen (k : Nat) (b : Byte) (s : State) : (s.writeInbuf k b).inlen = s.inlen := rfl
@[simp] theorem State.writeInbuf_lkup (k : Nat) (b : Byte) (s : State) : (s.writeInbuf k b).lkup = s.lkup := rfl
@[simp] theorem State.writeInbuf_chksum (k : Nat) (b : Byte) (s : State) : (s.writeInbuf k b).chksum = s.chksum := rfl
@[simp] theorem State.writeInbuf_inbuf (k : Nat) (b : Byte) (s : State) : (s.writeInbuf k b).inbuf = Memory.write s.inbuf k b := rfl
@[simp] theorem State.writeInbuf_bar (k : Nat) (b : Byte) (s : State) : (s.writeInbuf k b).bar = s.bar := rfl
@[simp] theorem State.writeInbuf_resets (k : Nat) (b : Byte) (s : State) : (s.writeInbuf k b).resets = s.resets := rfl
@[simp] theorem State.writeInbuf_pending (k : Nat) (b : Byte) (s : State) : (s.writeInbuf k b).pending = s.pending := rfl
@[simp] theorem State.writeInbuf_returned (k : Nat) (b : Byte) (s : State) : (s.writeInbuf k b).returned = s.returned := rfl

@[simp] theorem State.issueFirst_params (t : Transaction) (s : State) : (s.issueFirst t).params = s.params := rfl
@[simp] theorem State.issueFirst_status (t : Transaction) (s : State) : (s.issueFirst t).status = s.status := rfl
@[simp] theorem State.issueFirst_barLength (t : Transaction) (s : State) : (s.issueFirst t).barLength = s.barLength := rfl
@[simp] theorem State.issueFirst_inlen (t : Transaction) (s : State) : (s.issueFirst t).inlen = s.inlen := rfl
@[simp] theorem State.issueFirst_lkup (t : Transaction) (s : State) : (s.issueFirst t).lkup = s.lkup := rfl
@[simp] theorem State.issueFirst_chksum (t : Transaction) (s : State) : (s.issueFirst t).chksum = s.chksum := rfl
@[simp] theorem State.issueFirst_inbuf (t : Transaction) (s : State) : (s.issueFirst t).inbuf = s.inbuf := rfl
@[simp] theorem State.issueFirst_bar (t : Transaction) (s : State) : (s.issueFirst t).bar = s.bar := rfl
@[simp] theorem State.issueFirst_resets (t : Transaction) (s : State) : (s.issueFirst t).resets = s.resets := rfl
@[simp] theorem State.issueFirst_pending (t : Transaction) (s : State) : (s.issueFirst t).pending = .transaction t :: s.pending := rfl
@[simp] theorem State.issueFirst_returned (t : Transaction) (s : State) : (s.issueFirst t).returned = s.returned := rfl

@[simp] theorem State.assertReset_params (s : State) : s.assertReset.params = s.params := rfl
@[simp] theorem State.assertReset_status (s : State) : s.assertReset.status = ⟨false, false, false, .none⟩ := rfl
@[simp] theorem State.assertReset_barLength (s : State) : s.assertReset.barLength = 0#13 := rfl
@[simp] theorem State.assertReset_inlen (s : State) : s.assertReset.inlen = 0#16 := rfl
@[simp] theorem State.assertReset_lkup (s : State) : s.assertReset.lkup = 0#32 := rfl
@[simp] theorem State.assertReset_chksum (s : State) : s.assertReset.chksum = 0#32 := rfl
@[simp] theorem State.assertReset_inbuf (s : State) : s.assertReset.inbuf = [] := rfl
@[simp] theorem State.assertReset_bar (s : State) : s.assertReset.bar = [] := rfl
@[simp] theorem State.assertReset_resets (s : State) : s.assertReset.resets = s.resets + 1 := rfl
@[simp] theorem State.assertReset_pending (s : State) : s.assertReset.pending = s.pending := rfl
@[simp] theorem State.assertReset_returned (s : State) : s.assertReset.returned = Option.none := rfl

@[simp] theorem State.resetFor_params (p : Params) : (State.resetFor p).params = p := rfl
@[simp] theorem State.resetFor_status (p : Params) : (State.resetFor p).status = ⟨false, false, false, .none⟩ := rfl
@[simp] theorem State.resetFor_barLength (p : Params) : (State.resetFor p).barLength = 0#13 := rfl
@[simp] theorem State.resetFor_inlen (p : Params) : (State.resetFor p).inlen = 0#16 := rfl
@[simp] theorem State.resetFor_lkup (p : Params) : (State.resetFor p).lkup = 0#32 := rfl
@[simp] theorem State.resetFor_chksum (p : Params) : (State.resetFor p).chksum = 0#32 := rfl
@[simp] theorem State.resetFor_inbuf (p : Params) : (State.resetFor p).inbuf = [] := rfl
@[simp] theorem State.resetFor_bar (p : Params) : (State.resetFor p).bar = [] := rfl
@[simp] theorem State.resetFor_resets (p : Params) : (State.resetFor p).resets = 0 := rfl
@[simp] theorem State.resetFor_pending (p : Params) : (State.resetFor p).pending = [] := rfl
@[simp] theorem State.resetFor_returned (p : Params) : (State.resetFor p).returned = Option.none := rfl

end Sys2Proof.Machine
end

