-- ==== Sys2Proof/Laws/Memory.lean ====
section
/-! SUPPORT. The laws of INBUF's list of cells and of the cells' reads: read after write, and the canonical form, which
every operation keeps. -/

namespace Sys2Proof.Machine

@[simp] theorem Memory.read_nil (a : Nat) : Memory.read [] a = none := rfl

theorem Memory.read_write_same (m : Memory) (a : Nat) (b : Byte) : Memory.read (Memory.write m a b) a = some b := by
  induction m with
  | nil => simp [Memory.write, Memory.read]
  | cons c m ih =>
    obtain ⟨a', b'⟩ := c
    unfold Memory.write
    split
    · simp [Memory.read]
    · split
      · simp [Memory.read]
      · simp [Memory.read, *]

theorem Memory.read_write_other (m : Memory) {a a' : Nat} (b : Byte) (h : a' ≠ a) :
    Memory.read (Memory.write m a b) a' = Memory.read m a' := by
  induction m with
  | nil => simp [Memory.write, Memory.read, h]
  | cons c m ih =>
    obtain ⟨x, y⟩ := c
    unfold Memory.write
    split
    · simp [Memory.read, h]
    · split
      · subst x; simp [Memory.read, h]
      · simp [Memory.read, ih]

/-- Writing one byte twice is writing it once. -/
theorem Memory.write_write_same (m : Memory) (a : Nat) (b : Byte) :
    Memory.write (Memory.write m a b) a b = Memory.write m a b := by
  induction m with
  | nil => simp [Memory.write]
  | cons c m ih =>
    obtain ⟨x, y⟩ := c
    by_cases h1 : a < x
    · simp [Memory.write, h1]
    · by_cases h2 : a = x
      · simp [Memory.write, h2]
      · simp [Memory.write, h1, h2, ih]

/-- The cells after a write are the one written and cells that were there. -/
theorem Memory.mem_write {m : Memory} {a : Nat} {b : Byte} {c : Host.Cell} (h : c ∈ Memory.write m a b) :
    c = (a, b) ∨ c ∈ m := by
  induction m with
  | nil => simpa [Memory.write] using h
  | cons x m ih =>
    obtain ⟨x, y⟩ := x
    simp only [Memory.write] at h
    split at h
    · simpa using h
    · split at h
      · rcases List.mem_cons.1 h with h | h
        · exact .inl h
        · exact .inr (.tail _ h)
      · rcases List.mem_cons.1 h with h | h
        · exact .inr (h ▸ .head _)
        · exact (ih h).imp id (.tail _)

/-- A write keeps the canonical form. -/
theorem Memory.wf_write {m : Memory} (a : Nat) (b : Byte) (h : Memory.wf m) : Memory.wf (Memory.write m a b) := by
  induction m with
  | nil => simp [Memory.write]
  | cons x m ih =>
    obtain ⟨x, y⟩ := x
    obtain ⟨hx, hm⟩ := List.pairwise_cons.1 h
    simp only [Memory.write]
    split
    · rename_i hlt
      refine List.pairwise_cons.2 ⟨fun c hc => ?_, h⟩
      rcases List.mem_cons.1 hc with rfl | hc
      · exact hlt
      · exact Nat.lt_trans hlt (hx c hc)
    · split
      · rename_i heq
        subst heq
        exact List.pairwise_cons.2 ⟨hx, hm⟩
      · refine List.pairwise_cons.2 ⟨fun c hc => ?_, ih hm⟩
        rcases Memory.mem_write hc with rfl | hc
        · show x < a
          omega
        · exact hx c hc

/-- The reset memory has the canonical form. -/
theorem Memory.wf_reset (p : Params) : Memory.wf (State.resetFor p).inbuf := List.Pairwise.nil

/-- Equal lists of cells in an equal reset epoch give equal bytes. -/
theorem State.inbufByte_congr {s t : State} (h : t.inbuf = s.inbuf) (hr : t.resets = s.resets) (k : Nat) :
    t.inbufByte k = s.inbufByte k := by
  simp [State.inbufByte, State.inbufCell, h, hr]

/-- A cell that holds a value is read as that value, whatever the free bytes are. -/
theorem State.inbufByte_of_cell {s : State} {k : Nat} {b : Byte} (h : s.inbufCell k = some b) : s.inbufByte k = b := by
  simp [State.inbufByte, h]

theorem State.inbufCell_writeInbuf_same (s : State) (k : Nat) (b : Byte) :
    (s.writeInbuf k b).inbufCell k = some b := Memory.read_write_same _ _ _

theorem State.inbufCell_writeInbuf_other (s : State) {k j : Nat} (b : Byte) (h : j ≠ k) :
    (s.writeInbuf k b).inbufCell j = s.inbufCell j := Memory.read_write_other _ _ h

/-- A BAR cell that holds a value is read as that value. -/
theorem State.barBit_of_cell {s : State} {i : Nat} {b : Bool} (h : s.barCell i = some b) : s.barBit i = b := by
  simp [State.barBit, h]

end Sys2Proof.Machine
end

