-- ==== Sys2Proof/Laws/Encode.lean ====
section
/-! SUPPORT. What ENCODE may write (R171), which of its three endings a state gives (R214), and that it reads INLEN,
INBUF[0..INLEN) and the parameters only. -/

namespace Sys2Proof.Machine

@[simp] theorem failEncode_returned (c : Result) (s : State) : (failEncode c s).returned = s.returned := rfl

/-- ENCODE's three endings, in their priority. -/
theorem encodeEffect_cases (s : State) :
    (inputOverrun s = true ∧ encodeEffect s = failEncode .inputOverrun s) ∨
      (inputOverrun s = false ∧ inputValid s = false ∧ encodeEffect s = failEncode .invalidInput s) ∨
      (inputOverrun s = false ∧ inputValid s = true ∧
        encodeEffect s = commitEncode (encodeSymbols s).1 (encodeSymbols s).2 s) := by
  unfold encodeEffect
  cases inputOverrun s <;> cases inputValid s <;> simp

/-- What ENCODE leaves unwritten, whatever its ending. -/
theorem encodeEffect_frame (s : State) :
    (encodeEffect s).params = s.params ∧ (encodeEffect s).inlen = s.inlen ∧ (encodeEffect s).lkup = s.lkup ∧
      (encodeEffect s).inbuf = s.inbuf ∧ (encodeEffect s).resets = s.resets ∧ (encodeEffect s).pending = s.pending ∧
      ∀ c, (encodeEffect s).status.sticky c = s.status.sticky c := by
  rcases encodeEffect_cases s with ⟨_, h⟩ | ⟨_, _, h⟩ | ⟨_, _, h⟩ <;> rw [h] <;>
    exact ⟨rfl, rfl, rfl, rfl, rfl, rfl, fun c => by cases c <;> rfl⟩

theorem isDigit_iff (b : Byte) : isDigit b = true ↔ 0x30 ≤ b.toNat ∧ b.toNat ≤ 0x39 := by simp [isDigit]

theorem inputOverrun_iff (s : State) : inputOverrun s = true ↔ s.params.maxInputLen < s.inlen.toNat := by
  simp [inputOverrun]

/-- The check of R162, said of the bytes. -/
theorem inputValid_iff (s : State) : inputValid s = true ↔ ValidInput s := by
  simp [inputValid, ValidInput, isDigit_iff]

/-- The pair value of two digits is at most 99 (R164). -/
theorem pairValue_le {a b : Byte} (ha : isDigit a = true) (hb : isDigit b = true) : pairValue a b ≤ 99 := by
  rw [isDigit_iff] at ha hb
  unfold pairValue
  omega

/-- The loop reads the parameters and the bytes of its pairs only. -/
theorem encodePairs_congr {s t : State} (hp : t.params = s.params) (m i q) (hb : ∀ k, k < 2*(m+i) - 2  → t.inbufByte k = s.inbufByte k) (hi : 1 ≤ i) :
   encodePairs t m i q = encodePairs s m i q := by
  induction m generalizing i q with
  | zero => rfl
  | succ m ih =>
    simp only [encodePairs]
    rw [ih (i+1) _ (fun k hk => hb k (by omega)) (by omega), hb (2*i-2) (by omega), hb (2*i-1) (by omega), hp]

/-- The symbols depend on the parameters, INLEN and INBUF[0..INLEN) only. -/
theorem encodeSymbols_congr {s t : State} (hp : t.params = s.params) (hn : t.inlen = s.inlen)  (hb : ∀ k, k < s.inlen.toNat → t.inbufByte k = s.inbufByte k) :
   encodeSymbols t = encodeSymbols s := by
  simp only [encodeSymbols]
  rw [hp, hn, encodePairs_congr hp _ _ _ (fun k hk => hb k (by omega)) (by omega)]

/-- Validation depends on INLEN and INBUF[0..INLEN) only. -/
theorem inputValid_congr {s t : State} (hn : t.inlen = s.inlen)  (hb : ∀ k, k < s.inlen.toNat → t.inbufByte k = s.inbufByte k) :
   inputValid t = inputValid s := by
  rw [Bool.eq_iff_iff, inputValid_iff, inputValid_iff]
  unfold ValidInput
  rw [hn]
  exact and_congr_right fun _ => forall_congr' fun k => imp_congr_right fun hk => by rw [hb k hk]

/-- ENCODE overwrites RESULT: what it leaves does not depend on the RESULT it finds (R215). -/
theorem encodeEffect_setResult (s : State) (r : Result) : encodeEffect (s.setResult r) = encodeEffect s := by
  have hsym := encodeSymbols_congr (s := s) (t := s.setResult r) rfl rfl (fun _ _ => rfl)
  have hvalid := inputValid_congr (s := s) (t := s.setResult r) rfl (fun _ _ => rfl)
  unfold encodeEffect
  rw [hsym, hvalid, show inputOverrun (s.setResult r) = inputOverrun s from rfl]
  split
  · rfl
  · split <;> rfl

end Sys2Proof.Machine
end

