-- ==== Sys2Proof/Laws/Flags.lean ====
section
/-! SUPPORT. What recording a condition and clearing sticky bits do to STATUS, and the two ways a transaction ends. -/

namespace Sys2Proof.Machine

@[simp] theorem Status.raise_result (c : Condition) (st : Status) : (st.raise c).result = st.result := by
  cases c <;> rfl

theorem Status.sticky_raise (c c' : Condition) (st : Status) :
    (st.raise c).sticky c' = (decide (c' = c) || st.sticky c') := by
  cases c <;> cases c' <;> simp [Status.raise, Status.sticky]

@[simp] theorem clearSticky_result (d : Word) (st : Status) : (clearSticky d st).result = st.result := rfl

theorem Status.sticky_clearSticky (d : Word) (c : Condition) (st : Status) :
    (clearSticky d st).sticky c = (st.sticky c && !clears d c) := by cases c <;> rfl

/-- Recording a condition twice is recording it once ("leaves it set", R217). -/
theorem Status.raise_raise (c : Condition) (st : Status) : (st.raise c).raise c = st.raise c := by
  cases c <;> rfl

/-- A read that completes changes nothing but the port's output. -/
theorem State.respond_next {w : Word} {s t : State} (h : s.respond w = .next t) :
    t = s.setReturned (some w) := by
  simpa [State.respond, eq_comm] using h

/-- A write that completes leaves no word at the port. -/
theorem State.acknowledge_next {s t : State} (h : s.acknowledge = .next t) : t = s.setReturned none := by
  simpa [State.acknowledge, eq_comm] using h

theorem untouched_setReturned (r : Option Word) (s : State) : Untouched s (s.setReturned r) :=
  ⟨⟨rfl, rfl, rfl, rfl, rfl, fun _ => rfl, fun _ => rfl, rfl, rfl⟩, rfl⟩

/-- Recording a condition is the one effect of a transaction that records it (R215, R216). -/
theorem recordsOnly_raise (c : Condition) (r : Option Word) (s : State) :
    RecordsOnly c s ((s.raise c).setReturned r) where
  same := ⟨rfl, rfl, rfl, rfl, rfl, fun _ => rfl, fun _ => rfl, rfl, rfl⟩
  set := by simp [Status.sticky_raise]
  others := fun c' h => by simp [Status.sticky_raise, h]
  result := by simp

end Sys2Proof.Machine
end

