-- ==== Sys2Proof/Laws/Exec.lean ====
section
/-! SUPPORT. Everything a transaction can do (exec_cases) and everything a step can do (step_cases), said once: later
proofs cite these and do not unfold exec or step. -/

namespace Sys2Proof.Machine

/-- The effects a transaction can have: a word or none at the port and nothing else; one recorded condition, by a
transaction of the kinds of R215; or the effect of ENCODE, LOOKUP, WR_STATUS, WR_INLEN or an in-range WR_INBUF. -/
theorem exec_cases {i : Instr} {s t : State} (h : exec i s = .next t) :
   (∃ r, t = s.setReturned r) ∨ (∃ c r, t = (s.raise c).setReturned r ∧ (match c with
      | .badCmd => ∃ d, i = .cmdReserved d
      | .range => (∃ k x, i = .rdInbuf k x) ∨ (∃ k d, i = .wrInbuf k d) ∨ (∃ k x, i = .rdBar k x)
      | .accErr => (∃ k d, i = .wrRoBar k d) ∨ (∃ d, i = .wrRoBarCount d) ∨ (∃ g d, i = .wrRoConfig g d) ∨
          (∃ rw a d, i = .reservedAccess rw a d))) ∨
   (∃ v, i = .encode v ∧ t = (encodeEffect s).setReturned none) ∨
   (∃ v, i = .lookup v ∧ t = (s.setLkup (lkupWord (lookup v.toNat))).setReturned none) ∨
   (∃ d, i = .wrStatus d ∧ t = (s.setStatus (clearSticky d s.status)).setReturned none) ∨
   (∃ d, i = .wrInlen d ∧ t = (s.setInlen (inlenOperand d)).setReturned none) ∨
   (∃ k d, i = .wrInbuf k d ∧ k.toNat < s.params.maxInputLen ∧ t = (s.writeInbuf k.toNat (inbufOperand d)).setReturned none) := by
  cases i
  case rdInbuf k x =>
    simp only [exec, execRdInbuf] at h; split at h
    · exact .inl ⟨_, State.respond_next h⟩
    · exact .inr (.inl ⟨_, _, State.respond_next h, by simp⟩)
  case rdBar k x =>
    simp only [exec, execRdBar] at h; split at h
    · exact .inl ⟨_, State.respond_next h⟩
    · exact .inr (.inl ⟨_, _, State.respond_next h, by simp⟩)
  case wrInbuf k x =>
    simp only [exec, execWrInbuf] at h; split at h
    · rename_i hk
      exact .inr (.inr (.inr (.inr (.inr (.inr ⟨k, x, rfl, of_decide_eq_true hk, State.acknowledge_next h⟩)))))
    · exact .inr (.inl ⟨_, _, State.acknowledge_next h, by simp⟩)
  case reservedAccess rw a d =>
    cases rw
    · exact .inr (.inl ⟨.accErr, _, State.respond_next h, by simp⟩)
    · exact .inr (.inl ⟨.accErr, _, State.acknowledge_next h, by simp⟩)
  case cmdReserved | wrRoBarCount | wrRoConfig | wrRoBar => exact .inr (.inl ⟨_, _, State.acknowledge_next h, by simp⟩)
  case encode v => exact .inr (.inr (.inl ⟨v, rfl, State.acknowledge_next h⟩))
  case lookup v => exact .inr (.inr (.inr (.inl ⟨v, rfl, State.acknowledge_next h⟩)))
  case wrStatus v => exact .inr (.inr (.inr (.inr (.inl ⟨v, rfl, State.acknowledge_next h⟩))))
  case wrInlen v => exact .inr (.inr (.inr (.inr (.inr (.inl ⟨v, rfl, State.acknowledge_next h⟩)))))
  case nop => exact .inl ⟨_, State.acknowledge_next h⟩
  all_goals exact .inl ⟨_, State.respond_next h⟩

/-- The effects a step can have: none when no event waits; the reset state on the reset input; else the effect of the
transaction served. -/
theorem step_cases {s t : State} (h : step s = .next t) : (s.pending = [] ∧ t = s) ∨ ∃ e rest, s.pending = e :: rest ∧ 
   (((e = .reset ∨ ∃ x, e = .resetDuring x) ∧ t = (s.setPending rest).assertReset) ∨ ∃ x, e = .transaction x ∧ exec (decode x) (s.setPending rest) = .next t) := by
  unfold step State.takeEvent at h
  cases hp : s.pending with
  | nil => simp [hp] at h; exact .inl ⟨rfl, h.symm⟩
  | cons e rest =>
    refine .inr ⟨e, rest, rfl, ?_⟩
    cases e <;> simp [hp] at h
    · exact .inr ⟨_, rfl, h⟩
    · exact .inl ⟨.inl rfl, h.symm⟩
    · exact .inl ⟨.inr ⟨_, rfl⟩, h.symm⟩

/-- Recording a condition that is already recorded changes nothing (R217). -/
theorem raise_setReturned_raise (c : Condition) (s : State) (r : Option Word): ((s.raise c).setReturned r).raise c = (s.raise c).setReturned r := by
  cases c <;> rfl

end Sys2Proof.Machine
end

