-- ==== Sys2Proof/Laws/Packer.lean ====
section
/-! SUPPORT. What the bit-packer's inner operations do: one module, one run, and the polarity flip. -/

namespace Sys2Proof.Machine

/-- Cutting a prefix off before appending changes nothing that the last cut keeps. -/
theorem take_take_append {α : Type} (c : Nat) (l r : List α) : (l.take c ++ r).take c = (l ++ r).take c := by
  rcases Nat.le_total l.length c with h | h
  · rw [List.take_of_length_le h]
  · rw [List.take_append_of_le_length (by simp [h]), List.take_take, Nat.min_self,
      List.take_append_of_le_length h]

/-- The packer's own invariant: WP counts the cells written, and none is written past CAPACITY. -/
structure Packer.Ok (capacity : Nat) (p : Packer) : Prop where
  wp_eq : p.wp = p.cells.length
  wp_le : p.wp ≤ capacity

theorem packerInit_ok (capacity : Nat) : Packer.Ok capacity packerInit := ⟨rfl, Nat.zero_le _⟩

theorem packModule_pol (capacity : Nat) (p : Packer) : (packModule capacity p).pol = p.pol := by
  unfold packModule; split <;> rfl

theorem packModule_tot (capacity : Nat) (p : Packer) : (packModule capacity p).tot = p.tot + 1 := by
  unfold packModule; split <;> rfl

theorem packModule_ok {capacity : Nat} {p : Packer} (h : p.Ok capacity) : (packModule capacity p).Ok capacity := by
  unfold packModule
  split
  · exact ⟨by simp [h.wp_eq], by simp; omega⟩
  · exact ⟨h.wp_eq, h.wp_le⟩

/-- One module: the current polarity behind the cells, cut off at CAPACITY. -/
theorem packModule_cells {capacity : Nat} {p : Packer} (h : p.Ok capacity) :
    (packModule capacity p).cells = (p.cells ++ [p.pol]).take capacity := by
  have := h.wp_eq
  have := h.wp_le
  unfold packModule
  split
  · rw [List.take_of_length_le]; simp; omega
  · rw [List.take_append_of_le_length (by omega), List.take_of_length_le (by omega)]

/-- One run: it says everything the inner loop of AppendSymbol does (R122). -/
theorem packRun_spec {capacity : Nat} (n : Nat) {p : Packer} (h : p.Ok capacity) :
    (packRun capacity n p).Ok capacity ∧
      (packRun capacity n p).cells = (p.cells ++ List.replicate n p.pol).take capacity ∧
      (packRun capacity n p).tot = p.tot + n ∧ (packRun capacity n p).pol = p.pol := by
  induction n generalizing p with
  | zero =>
    have := h.wp_eq
    have := h.wp_le
    refine ⟨h, ?_, rfl, rfl⟩
    simp [packRun, List.take_of_length_le (show p.cells.length ≤ capacity by omega)]
  | succ n ih =>
    obtain ⟨h1, h2, h3, h4⟩ := ih (packModule_ok h)
    refine ⟨h1, ?_, by rw [packRun, h3, packModule_tot]; omega, by rw [packRun, h4, packModule_pol]⟩
    rw [packRun, h2, packModule_cells h, packModule_pol, take_take_append, List.replicate_succ,
      List.append_assoc, List.singleton_append]

@[simp] theorem flipPolarity_cells (p : Packer) : (flipPolarity p).cells = p.cells := rfl
@[simp] theorem flipPolarity_wp (p : Packer) : (flipPolarity p).wp = p.wp := rfl
@[simp] theorem flipPolarity_tot (p : Packer) : (flipPolarity p).tot = p.tot := rfl
@[simp] theorem flipPolarity_pol (p : Packer) : (flipPolarity p).pol = !p.pol := rfl

end Sys2Proof.Machine
end

