-- ==== Sys2Proof/Laws/PerInstr.lean ====
section
/-! SUPPORT. The family EncodedFields: of each instruction, the RW bit and the DATA field that its encoding carries
(30_encoding.md R70, R72). One lemma per constructor. -/

namespace Sys2Proof.Laws.EncodedFields

/-- The RW bit and the DATA field of the encoding of `i`: a read of the row's kind or a write, with the row's data. -/
def Statement (i : Instr) : Prop :=
  match i with
  | .nop v => transactionDirection (encodeInstr i) = .write ∧ transactionData (encodeInstr i) = commandWord 0x0#4 v
  | .encode v => transactionDirection (encodeInstr i) = .write ∧ transactionData (encodeInstr i) = commandWord 0x1#4 v
  | .lookup v => transactionDirection (encodeInstr i) = .write ∧ transactionData (encodeInstr i) = commandWord 0x2#4 v
  | .cmdReserved d => transactionDirection (encodeInstr i) = .write ∧ transactionData (encodeInstr i) = d
  | .rdCmd d => transactionDirection (encodeInstr i) = .read ∧ transactionData (encodeInstr i) = d
  | .rdStatus d => transactionDirection (encodeInstr i) = .read ∧ transactionData (encodeInstr i) = d
  | .wrStatus d => transactionDirection (encodeInstr i) = .write ∧ transactionData (encodeInstr i) = d
  | .rdBarCount d => transactionDirection (encodeInstr i) = .read ∧ transactionData (encodeInstr i) = d
  | .rdInlen d => transactionDirection (encodeInstr i) = .read ∧ transactionData (encodeInstr i) = d
  | .wrInlen d => transactionDirection (encodeInstr i) = .write ∧ transactionData (encodeInstr i) = d
  | .rdLkup d => transactionDirection (encodeInstr i) = .read ∧ transactionData (encodeInstr i) = d
  | .rdChksum d => transactionDirection (encodeInstr i) = .read ∧ transactionData (encodeInstr i) = d
  | .rdCap d => transactionDirection (encodeInstr i) = .read ∧ transactionData (encodeInstr i) = d
  | .rdMaxin d => transactionDirection (encodeInstr i) = .read ∧ transactionData (encodeInstr i) = d
  | .rdInbuf _ d => transactionDirection (encodeInstr i) = .read ∧ transactionData (encodeInstr i) = d
  | .wrInbuf _ d => transactionDirection (encodeInstr i) = .write ∧ transactionData (encodeInstr i) = d
  | .rdBar _ d => transactionDirection (encodeInstr i) = .read ∧ transactionData (encodeInstr i) = d
  | .wrRoBarCount d => transactionDirection (encodeInstr i) = .write ∧ transactionData (encodeInstr i) = d
  | .wrRoConfig _ d => transactionDirection (encodeInstr i) = .write ∧ transactionData (encodeInstr i) = d
  | .wrRoBar _ d => transactionDirection (encodeInstr i) = .write ∧ transactionData (encodeInstr i) = d
  | .reservedAccess rw _ d => transactionDirection (encodeInstr i) = rw ∧ transactionData (encodeInstr i) = d

theorem nop (v : Byte) : Statement (.nop v) := by simp [Statement, encodeInstr]
theorem encode (v : Byte) : Statement (.encode v) := by simp [Statement, encodeInstr]
theorem lookup (v : Byte) : Statement (.lookup v) := by simp [Statement, encodeInstr]
theorem cmdReserved (d : Word) : Statement (.cmdReserved d) := by simp [Statement, encodeInstr]
theorem rdCmd (d : Word) : Statement (.rdCmd d) := by simp [Statement, encodeInstr]
theorem rdStatus (d : Word) : Statement (.rdStatus d) := by simp [Statement, encodeInstr]
theorem wrStatus (d : Word) : Statement (.wrStatus d) := by simp [Statement, encodeInstr]
theorem rdBarCount (d : Word) : Statement (.rdBarCount d) := by simp [Statement, encodeInstr]
theorem rdInlen (d : Word) : Statement (.rdInlen d) := by simp [Statement, encodeInstr]
theorem wrInlen (d : Word) : Statement (.wrInlen d) := by simp [Statement, encodeInstr]
theorem rdLkup (d : Word) : Statement (.rdLkup d) := by simp [Statement, encodeInstr]
theorem rdChksum (d : Word) : Statement (.rdChksum d) := by simp [Statement, encodeInstr]
theorem rdCap (d : Word) : Statement (.rdCap d) := by simp [Statement, encodeInstr]
theorem rdMaxin (d : Word) : Statement (.rdMaxin d) := by simp [Statement, encodeInstr]
theorem rdInbuf (k : Index) (d : Word) : Statement (.rdInbuf k d) := by simp [Statement, encodeInstr]
theorem wrInbuf (k : Index) (d : Word) : Statement (.wrInbuf k d) := by simp [Statement, encodeInstr]
theorem rdBar (k : Index) (d : Word) : Statement (.rdBar k d) := by simp [Statement, encodeInstr]
theorem wrRoBarCount (d : Word) : Statement (.wrRoBarCount d) := by simp [Statement, encodeInstr]
theorem wrRoConfig (g : ConfigTarget) (d : Word) : Statement (.wrRoConfig g d) := by simp [Statement, encodeInstr]
theorem wrRoBar (k : Index) (d : Word) : Statement (.wrRoBar k d) := by simp [Statement, encodeInstr]
theorem reservedAccess (rw : Direction) (a : Addr) (d : Word) : Statement (.reservedAccess rw a d) := by simp [Statement, encodeInstr]

end Sys2Proof.Laws.EncodedFields
end

