-- ==== Sys2Proof/Tests/Slice0.lean ====
section
/-! SUPPORT. Tests on fixed values, each with its source in spec/, and for each obligation with hypotheses the witnesses
that meet them. -/

namespace Sys2Proof.Tests

open Sys2Proof.Machine

/-! Helpers. -/

/-- An instance with the given parameters, INBUF holding `bytes` from index 0 and INLEN its length. -/
def loaded (capacity maxInputLen : Nat) (bytes : List Byte) : State :=
  { State.resetFor ⟨capacity, maxInputLen⟩ with
    inlen := BitVec.ofNat 16 bytes.length, inbuf := bytes.mapIdx (fun k b => (k, b)) }

/-- What `f` shows of the next state; none if the machine stopped. -/
def after {α : Type} (o : Host.Outcome State Fault Refusal) (f : State → α) : Option α :=
  match o with
  | .next t => some (f t)
  | .fault _ => none
  | .refused _ => none

/-- A bar string of 95_test_vectors.md: 1 = bar, 0 = space. -/
def bars (digits : List Nat) : List Bool := digits.map (· == 1)

/-- RESULT, LENGTH, CHKSUM and the bars that ENCODE leaves. -/
def encoded (s : State) : Option (Result × Nat × Word × List Bool) :=
  after (exec (.encode 0) s) (fun t => (t.status.result, t.barLength.toNat, t.chksum, t.bar))

/-! WellFormed: an ill-formed term for each check (R75, R76). -/

theorem test_wf_refuses_nop_as_reserved_command : (Instr.cmdReserved 0x0000FF00).wf = false := by decide
theorem test_wf_refuses_encode_as_reserved_command : (Instr.cmdReserved 0x00000001).wf = false := by decide
theorem test_wf_accepts_reserved_commands :
    (Instr.cmdReserved 0x3).wf = true ∧ (Instr.cmdReserved 0x12).wf = true ∧ (Instr.cmdReserved 0x10001).wf = true := by
  decide
theorem test_wf_refuses_mapped_addresses :
    (Instr.reservedAccess .read 0x0007 0).wf = false ∧ (Instr.reservedAccess .write 0x1000 0).wf = false ∧
    (Instr.reservedAccess .read 0x2FFF 0).wf = false := by decide
theorem test_wf_accepts_reserved_addresses :
    (Instr.reservedAccess .read 0x0008 0).wf = true ∧ (Instr.reservedAccess .write 0x0FFF 0).wf = true ∧
    (Instr.reservedAccess .read 0x3000 0).wf = true ∧ (Instr.reservedAccess .write 0xFFFF 0).wf = true := by decide

/-! Decoding: a word for each constructor, from the spec's vectors (95_test_vectors.md L2.5, A1 to A31, and L3). -/

theorem test_decode_nop : decode 0x1000000000000#49 = .nop 0 ∧ decode 0x100000000FF00#49 = .nop 0xFF := by decide
theorem test_decode_encode : decode 0x1000000000001#49 = .encode 0 ∧ decode 0x100000000FF01#49 = .encode 0xFF := by decide
theorem test_decode_lookup : decode 0x1000000006A02#49 = .lookup 106 ∧ decode 0x100000000FF02#49 = .lookup 255 := by decide
theorem test_decode_cmd_reserved :
    decode 0x1000000000003#49 = .cmdReserved 0x3 ∧ decode 0x1000000000012#49 = .cmdReserved 0x12 ∧
    decode 0x1000000010001#49 = .cmdReserved 0x10001 := by decide
theorem test_decode_rd_cmd : decode 0x0000000000000#49 = .rdCmd 0 := by decide
theorem test_decode_rd_status : decode 0x0000100000000#49 = .rdStatus 0 ∧ decode 0x0000100001234#49 = .rdStatus 0x1234 := by decide
theorem test_decode_wr_status : decode 0x10001FFFFFFFF#49 = .wrStatus 0xFFFFFFFF := by decide
theorem test_decode_rd_bar_count : decode 0x0000200000000#49 = .rdBarCount 0 := by decide
theorem test_decode_rd_inlen : decode 0x0000300000000#49 = .rdInlen 0 := by decide
theorem test_decode_wr_inlen : decode 0x1000300010002#49 = .wrInlen 0x10002 := by decide
theorem test_decode_rd_lkup : decode 0x0000400000000#49 = .rdLkup 0 := by decide
theorem test_decode_rd_chksum : decode 0x0000500000000#49 = .rdChksum 0 := by decide
theorem test_decode_rd_cap : decode 0x0000600000000#49 = .rdCap 0 := by decide
theorem test_decode_rd_maxin : decode 0x0000700000000#49 = .rdMaxin 0 := by decide
theorem test_decode_rd_inbuf : decode 0x0101000000000#49 = .rdInbuf 16 0 := by decide
theorem test_decode_wr_inbuf : decode 0x1100012345631#49 = .wrInbuf 0 0x12345631 := by decide
theorem test_decode_rd_bar : decode 0x02FFF00000000#49 = .rdBar 4095 0 ∧ decode 0x0202E00000000#49 = .rdBar 46 0 := by decide
theorem test_decode_wr_ro_bar_count : decode 0x1000200000000#49 = .wrRoBarCount 0 := by decide
theorem test_decode_wr_ro_config : decode 0x100060000000A#49 = .wrRoConfig .cap 0xA := by decide
theorem test_decode_wr_ro_bar : decode 0x1200000000000#49 = .wrRoBar 0 0 := by decide
theorem test_decode_reserved_access :
    decode 0x0000800000000#49 = .reservedAccess .read 0x0008 0 ∧
    decode 0x1300000000000#49 = .reservedAccess .write 0x3000 0 ∧
    decode 0x0FFFF00000000#49 = .reservedAccess .read 0xFFFF 0 := by decide

/-- The table's own words, as the host gives them: row 2's, and a word with a bit above bit 48. -/
theorem test_decode_table_word :
    decodeTableWord 56 0x1000000000001 = some (.encode 0) ∧ decodeTableWord 49 0x1000000000001 = some (.encode 0) ∧
    decodeTableWord 56 0x2000000000000 = none := by decide

/-! The ROM and LOOKUP (L2.1; a miss sets no STATUS bit). -/

theorem test_lookup_first_and_last_pair :
    after (exec (.lookup 0) State.reset) State.lkup = some 0x60222212 ∧
    after (exec (.lookup 99) State.reset) State.lkup = some 0x60141311 := by decide
theorem test_lookup_stop_and_miss :
    after (exec (.lookup 106) State.reset) State.lkup = some 0x72111332 ∧
    after (exec (.lookup 107) (State.reset.setLkup 5)) (fun t => (t.lkup, statusWord t.status)) = some (0, 0) := by decide

/-- L2.2: X1 and X4. -/
theorem test_expand_start_and_stop :
    expand (lookup 105) true = bars [1,1,0,1,0,0,1,1,1,0,0] ∧
    expand (lookup 106) true = bars [1,1,0,0,0,1,1,1,0,1,0,1,1] := by decide

/-! ENCODE (L2.2, L2.4). -/

/-- E1: the empty string, right after reset. -/
theorem test_encode_empty : encoded (State.resetFor ⟨168, 16⟩) = some (.ok, 35, 0x80000002,
    bars [1,1,0,1,0,0,1,1,1,0,0, 1,1,0,0,1,1,0,0,1,1,0, 1,1,0,0,0,1,1,1,0,1,0,1,1]) := by decide +kernel

/-- B11: "00" with CAPACITY one short of the stream. -/
theorem test_encode_truncates : encoded (loaded 45 16 [0x30, 0x30]) = some (.truncated, 45, 0x80000002,
    bars [1,1,0,1,0,0,1,1,1,0,0, 1,1,0,1,1,0,0,1,1,0,0, 1,1,0,0,1,1,0,0,1,1,0, 1,1,0,0,0,1,1,1,0,1,0,1]) := by
  decide +kernel

/-- E15: the space in the last byte. -/
theorem test_encode_invalid : encoded (loaded 168 16 [0x31, 0x20]) = some (.invalidInput, 0, 0, []) := by decide +kernel

/-- E22: overrun is reported before an odd length or a non-digit. -/
theorem test_encode_overrun : encoded ((loaded 168 16 [0x61]).setInlen 0xFFFF) = some (.inputOverrun, 0, 0, []) := by
  decide +kernel

/-- E11 and S8: the 16-digit scenario, with n = MAX_INPUT_LEN. -/
theorem test_encode_sixteen_digits :
    (encoded (loaded 168 16 [0x31,0x32,0x33,0x34,0x35,0x36,0x37,0x38,0x39,0x30,0x31,0x32,0x33,0x34,0x35,0x36])).map
      (fun r => (r.1, r.2.1, r.2.2.1)) = some (.ok, 123, 0x80000013) := by decide +kernel

/-- H8: "0150" has checksum 0; H7: "0050" has 102. -/
theorem test_encode_checksum :
    (encoded (loaded 168 16 [0x30,0x31,0x35,0x30])).map (·.2.2.1) = some 0x80000000 ∧
    (encoded (loaded 168 16 [0x30,0x30,0x35,0x30])).map (·.2.2.1) = some 0x80000066 := by decide +kernel

/-! The other transactions, each one step from a small state (L2.5). -/

theorem test_step_runs_a_placed_word :
    after (step (State.reset.withFetchWord 56 0x1000300010002)) State.inlen = some 2 ∧
    after (step (State.reset.withFetchWord 56 0x1000000000003)) (fun t => statusWord t.status) = some 0x100 := by decide
theorem test_nop : after (exec (.nop 0xFF) (loaded 40 16 [0x31])) id = some (loaded 40 16 [0x31]) := by decide
theorem test_status_composed :
    after (exec (.rdStatus 0) (((State.reset.raise .badCmd).raise .range).raise .accErr)) State.returned =
      some (some 0x700) := by decide
/-- "`wr STATUS, 0x00000200` then gives 0x00000500" (L2.5). -/
theorem test_status_write_clears_one :
    after (exec (.wrStatus 0x200) (((State.reset.raise .badCmd).raise .range).raise .accErr))
      (fun t => statusWord t.status) = some 0x500 := by decide
theorem test_inlen_keeps_low_half : after (exec (.wrInlen 0x10002) State.reset) State.inlen = some 2 := by decide
theorem test_inbuf_write_then_read :
    after (exec (.wrInbuf 0 0x12345631) State.reset) (fun t => after (exec (.rdInbuf 0 0) t) State.returned) =
      some (some (some 0x31)) := by decide
theorem test_inbuf_write_out_of_range :
    after (exec (.wrInbuf 16 0x30) State.reset) (fun t => (t.inbuf, statusWord t.status)) = some ([], 0x200) := by decide
theorem test_inbuf_read_out_of_range :
    after (exec (.rdInbuf 16 0) State.reset) (fun t => (t.returned, statusWord t.status)) = some (some 0, 0x200) := by decide
/-- A23 with P1: writing BAR sets ACCERR and not RANGE. -/
theorem test_wr_ro_bar : after (exec (.wrRoBar 0 0) State.reset) (fun t => statusWord t.status) = some 0x400 := by decide
theorem test_bar_read_past_length :
    after (exec (.rdBar 0 0) State.reset) (fun t => (t.returned, statusWord t.status)) = some (some 0, 0x200) := by decide
theorem test_wr_ro_bar_count :
    after (exec (.wrRoBarCount 0) State.reset) (fun t => (t.barLength, statusWord t.status)) = some (0, 0x400) := by decide
theorem test_wr_ro_config :
    after (exec (.wrRoConfig .cap 10) State.reset) (fun t => (t.params.capacity, statusWord t.status)) =
      some (168, 0x400) := by decide
theorem test_reserved_access :
    after (exec (.reservedAccess .read 0x8 0) State.reset) (fun t => (t.returned, statusWord t.status)) =
      some (some 0, 0x400) ∧
    after (exec (.reservedAccess .write 0x3000 0) State.reset) (fun t => (t.returned, statusWord t.status)) =
      some (none, 0x400) := by decide
theorem test_rd_cap_maxin :
    after (exec (.rdCap 0) State.reset) State.returned = some (some 0xA8) ∧
    after (exec (.rdMaxin 0) State.reset) State.returned = some (some 0x10) := by decide
theorem test_rd_registers :
    after (exec (.rdLkup 0) (State.reset.setLkup 0x60232112)) State.returned = some (some 0x60232112) ∧
    after (exec (.rdChksum 0) (State.reset.setChksum 0x80000052)) State.returned = some (some 0x80000052) ∧
    after (exec (.rdCmd 0) State.reset) State.returned = some (some 0) := by decide
theorem test_rd_counts :
    after (exec (.rdBarCount 0) (State.reset.setBarStore [] 46)) State.returned = some (some 0x2E) ∧
    after (exec (.rdInlen 0) (State.reset.setInlen 17)) State.returned = some (some 0x11) := by decide
/-- R242: an ENCODE under way is cancelled. -/
theorem test_reset_cancels_encode :
    after (step ((loaded 168 16 [0x30, 0x30]).setPending [.resetDuring 0x1000000000001#49]))
      (fun t => (t.status.result, t.barLength, t.inlen, t.chksum)) = some (.none, 0, 0, 0) := by decide

/-! Witnesses: for each obligation with hypotheses, states and operands that meet them together, at the boundaries of
each clause. -/

/-- DecodeOfEncodeGivesInstructionBack. -/
theorem witness_wf : (Instr.cmdReserved 0x3).wf = true ∧ (Instr.reservedAccess .write 0xFFFF 0xFFFFFFFF).wf = true ∧
    (Instr.lookup 255).wf = true := by decide

/-- DecoderTakesFirstMatchingRow, last clause: two rows numbered neither 4 nor 21 (here the same row) both match. -/
theorem witness_rows_match : ∃ r ∈ opcodeTable, r.number ≠ 4 ∧ r.number ≠ 21 ∧ r.matches 0x1000700000000#49 = true :=
  ⟨⟨19, 0x1000400000000#49, 0x1FFFC00000000#49⟩, by decide, by decide, by decide, by decide⟩

/-- PseudoInstructionsDecodeAsExpanded: both branches of each condition. -/
theorem witness_pseudo :
    (assemblePseudo ⟨168, 16⟩ (.lookup 255)).isSome = true ∧ assemblePseudo ⟨168, 16⟩ (.lookup 256) = none ∧
    (assemblePseudo ⟨168, 16⟩ (.barState 4095)).isSome = true ∧ assemblePseudo ⟨168, 16⟩ (.barState 4096) = none ∧
    (assemblePseudo ⟨168, 16⟩ (.load (List.replicate 16 0x30))).isSome = true ∧
    assemblePseudo ⟨168, 16⟩ (.load (List.replicate 17 0x30)) = none := by decide

/-- StepServesOldestTransaction. -/
theorem witness_transaction_pending :
    (State.reset.issueFirst 0x1000000000001#49).pending = .transaction 0x1000000000001#49 :: [] := rfl

/-- ResetInputLeadsToResetState and ResetInputEmptiesInbufAndKeepsQueue, both kinds of reset. -/
theorem witness_reset_pending :
    ((loaded 168 16 [0x30]).setPending [.reset, .reset]).pending = .reset :: [.reset] ∧
    (State.reset.setPending [.resetDuring 0x1000000000001#49]).pending = .resetDuring 0x1000000000001#49 :: [] ∧
    (HostEvent.reset = .reset ∨ ∃ x, HostEvent.reset = .resetDuring x) ∧
    (HostEvent.resetDuring 1 = .reset ∨ ∃ x, HostEvent.resetDuring 1 = .resetDuring x) :=
  ⟨rfl, rfl, .inl rfl, .inr ⟨1, rfl⟩⟩

/-- IdleStepKeepsState. -/
theorem witness_idle : (loaded 168 16 [0x30]).pending = [] := rfl

/-- ResetRegistersRead, RegisterReadsReturnRegisters, ResetStateHasInvariant: the smallest and the largest legal instance. -/
theorem witness_legal_params : Params.Legal ⟨1, 16⟩ ∧ Params.Legal ⟨4096, 4096⟩ ∧ Params.Legal instanceParams := by decide

/-- EveryTransactionCompletes, EncodeStoresBarcodeOfInput, BarcodeStartsAndEndsOnBar: a legal instance and valid inputs
that fit INBUF, of length 0 and of MAX_INPUT_LEN, the stream of the first fitting exactly and of the second not. -/
theorem witness_valid_input :
    (loaded 35 16 []).params.Legal ∧ (loaded 35 16 []).inlen.toNat ≤ (loaded 35 16 []).params.maxInputLen ∧
    ValidInput (loaded 35 16 []) ∧
    (loaded 1 16 (List.replicate 16 0x39)).params.Legal ∧
    (loaded 1 16 (List.replicate 16 0x39)).inlen.toNat ≤ (loaded 1 16 (List.replicate 16 0x39)).params.maxInputLen ∧
    ValidInput (loaded 1 16 (List.replicate 16 0x39)) := by unfold ValidInput; decide +kernel

/-- EncodeResultPriority: each clause's hypotheses, with 35 + 11·m just at and just above CAPACITY. -/
theorem witness_encode_results :
    (loaded 46 16 (List.replicate 17 0x30)).params.maxInputLen < (loaded 46 16 (List.replicate 17 0x30)).inlen.toNat ∧
    (loaded 46 16 [0x30]).inlen.toNat ≤ (loaded 46 16 [0x30]).params.maxInputLen ∧ ¬ ValidInput (loaded 46 16 [0x30]) ∧
    ¬ ValidInput (loaded 46 16 [0x2F, 0x30]) ∧ ¬ ValidInput (loaded 46 16 [0x30, 0x3A]) ∧
    ValidInput (loaded 46 16 [0x30, 0x30]) ∧
    (loaded 45 16 [0x30, 0x30]).params.capacity < 35 + 11 * ((loaded 45 16 [0x30, 0x30]).inlen.toNat / 2) ∧
    35 + 11 * ((loaded 46 16 [0x30, 0x30]).inlen.toNat / 2) ≤ (loaded 46 16 [0x30, 0x30]).params.capacity := by
  unfold ValidInput; decide +kernel

/-- FailedEncodeEmptiesBarcode: each side of its hypothesis. -/
theorem witness_failing_inputs :
    ((loaded 168 16 []).setInlen 17).params.maxInputLen < ((loaded 168 16 []).setInlen 17).inlen.toNat ∧
    ¬ ValidInput (loaded 168 16 [0xB0, 0xB0]) := by unfold ValidInput; decide +kernel

/-- A small state with a barcode: CAPACITY 2, "" encoded and truncated. -/
def truncatedState : State :=
  { State.resetFor ⟨2, 16⟩ with
    status := ⟨false, false, false, .truncated⟩, barLength := 2, bar := [true, true], chksum := 0x80000002 }

/-- A state with the invariant and a BarStore that is not empty. -/
theorem witness_inv : truncatedState.Inv where
  params_legal := by decide
  length_le := by decide
  bar_cells := by decide
  inbuf_wf := by decide
  inbuf_bound := by decide
  lkup_word := .inl rfl
  result := ⟨⟨2, by decide, by decide⟩, rfl, rfl⟩

/-- StepKeepsInvariant, StoreDoesNotGrow: a state with the invariant from which a step runs a transaction. -/
theorem witness_step_from_inv :
    (truncatedState.issueFirst 0x1000000000001#49).Inv ∧
    ∃ t, step (truncatedState.issueFirst 0x1000000000001#49) = .next t :=
  ⟨⟨witness_inv.1, witness_inv.2, witness_inv.3, witness_inv.4, witness_inv.5, witness_inv.6, witness_inv.7⟩, _, rfl⟩

/-- BarReadReturnsModule and BarReadPastLengthReturnsZero: the last index below LENGTH and LENGTH itself. -/
theorem witness_bar_indices :
    (1 : Index).toNat < truncatedState.barLength.toNat ∧ truncatedState.barLength.toNat ≤ (2 : Index).toNat ∧
    truncatedState.barLength.toNat ≤ (4095 : Index).toNat := by decide

/-- BarcodeWrittenOnlyByEncode, InputWrittenOnlyByInputWrites, ReadsHaveNoSideEffectAndAllIsIdempotent: a transaction of
each kind answers a next state, and a cell changes. -/
theorem witness_exec_next :
    (∃ t, exec (.wrInbuf 15 0x31) State.reset = .next t ∧ t.inbufCell 15 ≠ State.reset.inbufCell 15) ∧
    (∃ t, exec (.wrStatus 7) truncatedState = .next t) ∧ (∀ v, Instr.wrStatus 7 ≠ .encode v) ∧
    (∀ v, Instr.wrStatus 7 ≠ .lookup v) ∧ (∀ d, Instr.wrStatus 7 ≠ .wrInlen d) :=
  ⟨⟨_, rfl, by decide⟩, ⟨_, rfl⟩, by simp, by simp, by simp⟩

/-- OneStickyBitPerTransaction: a transaction that sets each of the three bits, and one that keeps a set bit. -/
theorem witness_sticky_set :
    after (exec (.cmdReserved 3) State.reset) (fun t => t.status.sticky .badCmd) = some true ∧
    after (exec (.rdInbuf 16 0) State.reset) (fun t => t.status.sticky .range) = some true ∧
    after (exec (.wrRoBar 0 0) State.reset) (fun t => t.status.sticky .accErr) = some true ∧
    (State.reset.raise .range).status.sticky .range = true ∧ (∀ c, State.reset.status.sticky c = false) ∧
    (∀ d, Instr.nop 0 ≠ .wrStatus d) := by
  refine ⟨by decide, by decide, by decide, rfl, fun c => ?_, by simp⟩
  cases c <;> rfl

/-- OneStickyBitPerTransaction, its clause on ENCODE: an ENCODE in a state that an earlier one left TRUNCATED. -/
theorem witness_sticky_encode :
    truncatedState.status.result = .truncated ∧ (∃ t, exec (.encode 0) truncatedState = .next t) := ⟨by decide, ⟨_, rfl⟩⟩

/-- RomEntriesHaveStatedWidths: the first and the last row of the printed table (R101). -/
theorem witness_printed_rows :
    printedSymbols[0]? = some ⟨212222, 11, 0b11011001100, 0x60222212⟩ ∧
    printedSymbols[106]? = some ⟨2331112, 13, 0b1100011101011, 0x72111332⟩ := by decide

/-- StickyBitsClearedOnlyByStatusWriteOrReset: a step that clears a bit, and one that changes RESULT. -/
theorem witness_sticky_cleared :
    (State.reset.raise .range).status.sticky .range = true ∧
    after (step ((State.reset.raise .range).issueFirst 0x1000100000200#49)) (fun t => t.status.sticky .range) =
      some false ∧
    after (step (truncatedState.setPending [.reset])) (fun t => t.status.result) = some .none := by decide

/-- InbufReadAfterWrite: the last cell, and another cell. -/
theorem witness_inbuf_write :
    (15 : Index).toNat < State.reset.params.maxInputLen ∧ (∃ t, exec (.wrInbuf 15 0x31) State.reset = .next t) ∧
    (14 : Index) ≠ 15 := ⟨by decide, ⟨_, rfl⟩, by decide⟩

/-- InbufWriteStoresOneByte and InbufReadReturnsByte: both sides of the range check, and a cell that holds a byte. -/
theorem witness_inbuf_range :
    (15 : Index).toNat < State.reset.params.maxInputLen ∧ ¬ (16 : Index).toNat < State.reset.params.maxInputLen ∧
    (loaded 168 16 [0x37]).inbufCell 0 = some 0x37 := by decide

/-- BarCountReadsLength: an ENCODE that ends in each failure. -/
theorem witness_failed_encode :
    after (exec (.encode 0) (loaded 168 16 [0x30])) (fun t => t.status.result) = some .invalidInput ∧
    after (exec (.encode 0) ((loaded 168 16 []).setInlen 17)) (fun t => t.status.result) = some .inputOverrun := by
  decide +kernel

/-- NopChangesNothing: a CMD write with OP, bits 7:4 and bits 31:16 zero and V all ones. -/
theorem witness_nop_word :
    (0x0000FF00 : Word).extractLsb' 0 4 = 0#4 ∧ (0x0000FF00 : Word).extractLsb' 4 4 = 0#4 ∧
    (0x0000FF00 : Word).extractLsb' 16 16 = 0#16 := by decide

/-- ReservedCommandSetsBadcmd: each of the three ways to be reserved, at its least and greatest word. -/
theorem witness_reserved_commands :
    3 ≤ ((0x3 : Word).extractLsb' 0 4).toNat ∧ 3 ≤ ((0xF : Word).extractLsb' 0 4).toNat ∧
    (0x12 : Word).extractLsb' 4 4 ≠ 0#4 ∧ (0x80 : Word).extractLsb' 4 4 ≠ 0#4 ∧
    (0x10001 : Word).extractLsb' 16 16 ≠ 0#16 ∧ (0x80000000 : Word).extractLsb' 16 16 ≠ 0#16 := by decide

/-- ReservedAddressSetsAccerr: the four ends of the reserved ranges, in both directions. -/
theorem witness_reserved_addresses :
    (0x0008 ≤ (0x0008 : Addr).toNat ∧ (0x0008 : Addr).toNat ≤ 0x0FFF) ∧
    (0x0008 ≤ (0x0FFF : Addr).toNat ∧ (0x0FFF : Addr).toNat ≤ 0x0FFF) ∧
    0x3000 ≤ (0x3000 : Addr).toNat ∧ 0x3000 ≤ (0xFFFF : Addr).toNat ∧ Direction.read = .read ∧
    Direction.write = .write := by decide

/-- LookupPacksWeights: the last hit and the first miss. -/
theorem witness_lookup_miss : 106 < (107 : Byte).toNat ∧ ¬ 106 < (106 : Byte).toNat := by decide

/-- AppendSymbolWritesExpansion: an empty packer, and one that is full. -/
theorem witness_packer :
    packerInit.wp = packerInit.cells.length ∧ packerInit.wp ≤ 1 ∧
    (⟨[true], 1, 1, false⟩ : Packer).wp = (⟨[true], 1, 1, false⟩ : Packer).cells.length ∧
    (⟨[true], 1, 1, false⟩ : Packer).wp ≤ 1 := by decide

/-- EncodeDependsOnInputOnly: two states that differ in older results and in a byte past INLEN, and agree on the input. -/
theorem witness_same_input :
    (truncatedState.setInlen 0).params = (State.resetFor ⟨2, 16⟩).params ∧
    (truncatedState.setInlen 0).inlen = (State.resetFor ⟨2, 16⟩).inlen ∧
    (∀ k, k < (State.resetFor ⟨2, 16⟩).inlen.toNat →
      ((truncatedState.setInlen 0).writeInbuf 3 0x61).inbufByte k = (State.resetFor ⟨2, 16⟩).inbufByte k) ∧
    (∃ t, exec (.encode 0) (State.resetFor ⟨2, 16⟩) = .next t) ∧
    ∃ t, exec (.encode 9) ((truncatedState.setInlen 0).writeInbuf 3 0x61) = .next t :=
  ⟨rfl, rfl, fun k h => absurd h (Nat.not_lt_zero k), ⟨_, rfl⟩, ⟨_, rfl⟩⟩

/-- BarcodeStartsAndEndsOnBar: an ENCODE that leaves a whole barcode, one that leaves a truncated one and one of an
invalid input. -/
theorem witness_whole_barcode :
    (∃ t, exec (.encode 0) (loaded 35 16 []) = .next t ∧ WholeBarcode t) ∧
    (∃ t, exec (.encode 0) (loaded 34 16 []) = .next t ∧ t.status.result = .truncated) ∧
    ¬ ValidInput (loaded 35 16 [0x30]) :=
  ⟨⟨_, rfl, by unfold WholeBarcode; decide +kernel⟩, ⟨_, rfl, by decide +kernel⟩, by unfold ValidInput; decide +kernel⟩

/-- DutifulHostNeverSeesUnspecifiedCells: the duty is kept by a BAR read below LENGTH, an INBUF read of a written cell
and an ENCODE of a written input, from states with the invariant and no sticky bit. -/
theorem witness_duty :
    HostDuty (.rdBar 1 0) truncatedState ∧ truncatedState.Inv ∧ CleanStatus truncatedState ∧
    HostDuty (.rdInbuf 0 0) (loaded 168 16 [0x30, 0x30]) ∧ HostDuty (.encode 0) (loaded 168 16 [0x30, 0x30]) ∧
    (loaded 168 16 [0x30, 0x30]).Inv := by
  refine ⟨by unfold HostDuty; decide, witness_inv, fun c => by cases c <;> rfl, by unfold HostDuty; decide,
    by unfold HostDuty; decide, ?_⟩
  exact ⟨by decide, by decide, by decide, by decide, by decide, .inl rfl, rfl, rfl⟩

end Sys2Proof.Tests
end

section
/-! The symbols of a barcode as streams of modules: how many modules a symbol has, and how a stream starts and ends. -/

namespace Sys2Proof.Machine

/-- The modules of the symbols `vs` in order, each symbol starting on a bar (R124, R126). -/
def symbolStream (vs : List Nat) : List Bool := vs.flatMap fun v => expand (lookup v) true

@[simp] theorem symbolStream_nil : symbolStream [] = [] := rfl

@[simp] theorem symbolStream_cons (v : Nat) (vs : List Nat) :
    symbolStream (v :: vs) = expand (lookup v) true ++ symbolStream vs := rfl

@[simp] theorem symbolStream_append (vs ws : List Nat) :
    symbolStream (vs ++ ws) = symbolStream vs ++ symbolStream ws := List.flatMap_append

theorem expand_length (w : List Nat) (b : Bool) : (expand w b).length = w.sum := by
  induction w generalizing b with
  | nil => rfl
  | cons n w ih => simp [expand, ih]

/-- Every symbol but STOP has six runs and eleven modules (R102). -/
theorem lookup_symbol : ∀ v ≤ 105, (lookup v).length = 6 ∧ (lookup v).sum = 11 := by decide

/-- A lookup miss packs to 0 (R106). -/
theorem lkupWord_lookup_miss {v : Nat} (h : 106 < v) : lkupWord (lookup v) = 0#32 := by
  have hmiss : lookup v = [] := if_neg (by omega)
  rw [hmiss]
  decide

theorem symbolStream_length {vs : List Nat} (h : ∀ v ∈ vs, v ≤ 105) :
    (symbolStream vs).length = 11 * vs.length := by
  induction vs with
  | nil => rfl
  | cons v vs ih =>
    obtain ⟨hv, hvs⟩ := List.forall_mem_cons.1 h
    simp [expand_length, (lookup_symbol v hv).2, ih hvs]
    omega

/-- START-C starts on a bar, and so does a stream that starts with it. -/
theorem symbolStream_head (vs : List Nat) : (symbolStream (105 :: vs))[0]? = some true := rfl

/-- STOP ends on a bar, and so does a stream that ends with it. -/
theorem symbolStream_last (vs : List Nat) : (symbolStream (vs ++ [106])).getLast? = some true := by
  have hstop : (expand (lookup 106) true).getLast? = some true := by decide
  simp [List.getLast?_append, hstop]

end Sys2Proof.Machine
end

section
/-! What the packer holds while ENCODE appends symbols, and what it holds at the end. -/

namespace Sys2Proof.Machine

/-- The packer has been driven by the modules `S` and is at polarity `pol`: it keeps the first CAPACITY of them and
counts them all (R122, R127). -/
structure Packer.Holds (capacity : Nat) (S : List Bool) (pol : Bool) (p : Packer) : Prop where
  ok    : p.Ok capacity
  cells : p.cells = S.take capacity
  tot   : p.tot = S.length
  pol   : p.pol = pol

theorem packerInit_holds (capacity : Nat) : packerInit.Holds capacity [] true :=
  ⟨packerInit_ok capacity, by simp [packerInit], rfl, rfl⟩

variable {capacity : Nat} {S : List Bool} {p : Packer}

/-- WP is the length of the stream, cut at CAPACITY. -/
theorem Packer.Holds.wp {b : Bool} (h : p.Holds capacity S b) : p.wp = min capacity S.length := by
  rw [h.ok.wp_eq, h.cells, List.length_take]

/-- A run and the polarity flip after it. -/
theorem Packer.Holds.run {b : Bool} (h : p.Holds capacity S b) (n : Nat) :
    (flipPolarity (packRun capacity n p)).Holds capacity (S ++ List.replicate n b) (!b) := by
  obtain ⟨hok, hcells, htot, hpol⟩ := packRun_spec n h.ok
  refine ⟨⟨hok.wp_eq, hok.wp_le⟩, ?_, ?_, ?_⟩
  · rw [flipPolarity_cells, hcells, h.cells, h.pol, take_take_append]
  · rw [flipPolarity_tot, htot, h.tot, List.length_append, List.length_replicate]
  · rw [flipPolarity_pol, hpol, h.pol]

/-- AppendSymbol appends the symbol's expansion, and each run flips the polarity once. -/
theorem Packer.Holds.appendSymbol {b : Bool} (h : p.Holds capacity S b) (w : List Nat) :
    (appendSymbol capacity w p).Holds capacity (S ++ expand w b) ((!·)^[w.length] b) := by
  induction w generalizing S p b with
  | nil => simpa [Machine.appendSymbol, expand] using h
  | cons n w ih => simpa [Machine.appendSymbol, expand] using ih (h.run n)

/-- A symbol other than STOP has an even number of runs, so the next symbol starts on a bar too (R124). -/
theorem Packer.Holds.symbol (h : p.Holds capacity S true) {v : Nat} (hv : v ≤ 105) :
    (Machine.appendSymbol capacity (lookup v) p).Holds capacity (S ++ symbolStream [v]) true := by
  have := h.appendSymbol (lookup v)
  rw [(lookup_symbol v hv).1] at this
  simpa using this

/-- The symbol value of the digit pair `j`, counted from 0 (R164). -/
def pairAt (s : State) (j : Nat) : Nat := pairValue (s.inbufByte (2 * j)) (s.inbufByte (2 * j + 1))

theorem inputSymbols_eq_map (s : State) : inputSymbols s = (List.range (s.inlen.toNat / 2)).map (pairAt s) := rfl

theorem pairAt_le {s : State} (h : ValidInput s) {j : Nat} (hj : j < s.inlen.toNat / 2) : pairAt s j ≤ 99 := by
  obtain ⟨-, hdigit⟩ := h
  exact pairValue_le ((isDigit_iff _).2 (hdigit _ (by omega))) ((isDigit_iff _).2 (hdigit _ (by omega)))

/-- Every data symbol of a valid input is a symbol value from 0 to 99. -/
theorem inputSymbols_le {s : State} (h : ValidInput s) : ∀ v ∈ inputSymbols s, v ≤ 99 := by
  simp only [inputSymbols_eq_map, List.mem_map, List.mem_range]
  rintro v ⟨j, hj, rfl⟩
  exact pairAt_le h hj

@[simp] theorem inputSymbols_length (s : State) : (inputSymbols s).length = s.inlen.toNat / 2 := by
  simp [inputSymbols_eq_map]

/-- The sequencer's loop appends the symbols of its pairs in order (R163). -/
theorem encodePairs_holds {s : State} (m j : Nat) {q : Sequencer} (hq : q.packer.Holds s.params.capacity S true)
    (hpair : ∀ k, k < j + m → pairAt s k ≤ 99) :
    (encodePairs s m (j + 1) q).packer.Holds s.params.capacity
      (S ++ symbolStream ((List.range' j m).map (pairAt s))) true := by
  induction m generalizing j q S with
  | zero => simpa [encodePairs] using hq
  | succ m ih =>
    have hj : pairAt s j ≤ 105 := Nat.le_trans (hpair j (by omega)) (by omega)
    have hrest := ih (j + 1) (q := ⟨_, checksumStep (j + 1) (pairAt s j) q.acc⟩) (hq.symbol hj)
      fun k hk => hpair k (by omega)
    simpa [encodePairs, List.range'_succ, Nat.mul_succ, pairAt] using hrest

theorem encodeSymbols_checksum_le (s : State) : (encodeSymbols s).2 ≤ 102 :=
  Nat.le_of_lt_succ (Nat.mod_lt _ (by omega))

/-- The symbols that ENCODE appends: START-C, the data, the checksum symbol it computed, STOP (R163). -/
def encodedSymbols (s : State) : List Nat := 105 :: (inputSymbols s ++ [(encodeSymbols s).2]) ++ [106]

/-- ENCODE of a valid input drives the packer by the stream of its symbols. -/
theorem encodeSymbols_holds {s : State} (h : ValidInput s) :
    (encodeSymbols s).1.Holds s.params.capacity (symbolStream (encodedSymbols s)) false := by
  have hstart := (packerInit_holds s.params.capacity).symbol (v := 105) (by omega)
  have hdata := encodePairs_holds (s := s) (s.inlen.toNat / 2) 0 (q := ⟨_, checksumInit⟩) hstart
    fun k hk => pairAt_le h (by omega)
  have hchk := hdata.symbol (Nat.le_trans (encodeSymbols_checksum_le s) (by omega))
  have hstream : symbolStream (encodedSymbols s) = [] ++ symbolStream [105] ++
      symbolStream ((List.range' 0 (s.inlen.toNat / 2)).map (pairAt s)) ++ symbolStream [(encodeSymbols s).2] ++
      expand (lookup 106) true := by
    simp [encodedSymbols, inputSymbols_eq_map, List.range_eq_range']
  rw [hstream]
  exact hchk.appendSymbol (lookup 106)

/-- 11 modules per symbol and 13 for STOP: the stream of m data symbols has 35 + 11·m (R128). -/
theorem encodedStream_length {s : State} (h : ValidInput s) :
    (symbolStream (encodedSymbols s)).length = 35 + 11 * (s.inlen.toNat / 2) := by
  have hle : ∀ v ∈ 105 :: (inputSymbols s ++ [(encodeSymbols s).2]), v ≤ 105 := by
    simp only [List.forall_mem_cons, List.forall_mem_append, List.not_mem_nil, false_imp_iff, implies_true, and_true]
    exact ⟨le_rfl, fun v hv => (inputSymbols_le h v hv).trans (by omega),
      (encodeSymbols_checksum_le s).trans (by omega)⟩
  have hstop : (symbolStream [106]).length = 13 := by decide
  rw [encodedSymbols, symbolStream_append, List.length_append, symbolStream_length hle, hstop]
  simp
  omega

end Sys2Proof.Machine
end

section
/-! The invariant: each kind of effect that exec_cases and step_cases list keeps it. -/

namespace Sys2Proof.Machine

variable {S : List Bool}

/-- The fields that ResultAgrees reads are as before: nothing has touched the barcode. -/
structure SameBarcode (s t : State) : Prop where
  params    : t.params = s.params
  result    : t.status.result = s.status.result
  barLength : t.barLength = s.barLength
  bar       : t.bar = s.bar
  chksum    : t.chksum = s.chksum

theorem ResultAgrees.of_sameBarcode {s t : State} (h : SameBarcode s t) (hs : ResultAgrees s) : ResultAgrees t := by
  unfold ResultAgrees State.barCell
  rw [h.result, h.barLength, h.chksum, h.bar, h.params]
  exact hs

/-- A state with the barcode of a state that has the invariant has it too, once its INBUF and its LKUP are in order. -/
theorem State.Inv.of_sameBarcode {s t : State} (hs : s.Inv) (h : SameBarcode s t) (hwf : Memory.wf t.inbuf)
    (hbound : ∀ c ∈ t.inbuf, c.1 < s.params.maxInputLen)
    (hlkup : t.lkup = 0#32 ∨ ∃ v, v ≤ 106 ∧ t.lkup = lkupWord (lookup v)) : t.Inv where
  params_legal := h.params ▸ hs.params_legal
  length_le := by rw [h.barLength, h.params]; exact hs.length_le
  bar_cells := by rw [h.bar, h.barLength]; exact hs.bar_cells
  inbuf_wf := hwf
  inbuf_bound := by rw [h.params]; exact hbound
  lkup_word := hlkup
  result := hs.result.of_sameBarcode h

/-- The same with INBUF and LKUP as before. -/
theorem State.Inv.of_same {s t : State} (hs : s.Inv) (h : SameBarcode s t) (hinbuf : t.inbuf = s.inbuf)
    (hlkup : t.lkup = s.lkup) : t.Inv :=
  hs.of_sameBarcode h (hinbuf ▸ hs.inbuf_wf) (hinbuf ▸ hs.inbuf_bound) (hlkup ▸ hs.lkup_word)

theorem State.Inv.setReturned {s : State} (hs : s.Inv) (r : Option Word) : (s.setReturned r).Inv :=
  hs.of_same ⟨rfl, rfl, rfl, rfl, rfl⟩ rfl rfl

theorem State.Inv.setPending {s : State} (hs : s.Inv) (es : List HostEvent) : (s.setPending es).Inv :=
  hs.of_same ⟨rfl, rfl, rfl, rfl, rfl⟩ rfl rfl

theorem State.Inv.setInlen {s : State} (hs : s.Inv) (n : BitVec 16) : (s.setInlen n).Inv :=
  hs.of_same ⟨rfl, rfl, rfl, rfl, rfl⟩ rfl rfl

/-- A new STATUS with the old RESULT. -/
theorem State.Inv.setStatus {s : State} (hs : s.Inv) {st : Status} (h : st.result = s.status.result) :
    (s.setStatus st).Inv :=
  hs.of_same ⟨rfl, h, rfl, rfl, rfl⟩ rfl rfl

theorem State.Inv.raise {s : State} (hs : s.Inv) (c : Condition) : (s.raise c).Inv :=
  hs.setStatus (Status.raise_result c s.status)

/-- LOOKUP leaves a ROM entry in LKUP, or 0 on a miss. -/
theorem State.Inv.setLkup {s : State} (hs : s.Inv) (v : Nat) : (s.setLkup (lkupWord (lookup v))).Inv := by
  refine hs.of_sameBarcode ⟨rfl, rfl, rfl, rfl, rfl⟩ hs.inbuf_wf hs.inbuf_bound ?_
  rcases Nat.lt_or_ge 106 v with hmiss | hhit
  · exact .inl (lkupWord_lookup_miss hmiss)
  · exact .inr ⟨v, hhit, rfl⟩

theorem State.Inv.writeInbuf {s : State} (hs : s.Inv) {k : Nat} (hk : k < s.params.maxInputLen) (b : Byte) :
    (s.writeInbuf k b).Inv := by
  refine hs.of_sameBarcode ⟨rfl, rfl, rfl, rfl, rfl⟩ (Memory.wf_write k b hs.inbuf_wf) (fun c hc => ?_) hs.lkup_word
  rcases Memory.mem_write hc with rfl | hc
  · exact hk
  · exact hs.inbuf_bound c hc

theorem State.Inv.assertReset {s : State} (hs : s.Inv) : s.assertReset.Inv where
  params_legal := hs.params_legal
  length_le := Nat.zero_le _
  bar_cells := rfl
  inbuf_wf := .nil
  inbuf_bound := by simp
  lkup_word := .inl rfl
  result := ⟨rfl, rfl⟩

/-- A failed ENCODE empties the BarStore, and its code says so. -/
theorem State.Inv.failEncode {s : State} (hs : s.Inv) {code : Result}
    (hcode : code = .invalidInput ∨ code = .inputOverrun) : (failEncode code s).Inv where
  params_legal := hs.params_legal
  length_le := Nat.zero_le _
  bar_cells := rfl
  inbuf_wf := hs.inbuf_wf
  inbuf_bound := hs.inbuf_bound
  lkup_word := hs.lkup_word
  result := by
    rcases hcode with rfl | rfl <;> exact ⟨rfl, rfl⟩

/-- LENGTH after the commit is WP itself: at most 4096 modules fit in its 13 bits. -/
theorem commitEncode_barLength {s : State} {p : Packer} (hs : s.params.Legal) (hp : p.Ok s.params.capacity)
    (chk : Nat) : (commitEncode p chk s).barLength.toNat = p.wp := by
  obtain ⟨-, hcap, -, -⟩ := hs
  have := hp.wp_le
  exact Nat.mod_eq_of_lt (by omega)

/-- The BAR cells after the commit are the first CAPACITY modules of the stream. -/
theorem commitEncode_barCell {s : State} {p : Packer} {b : Bool} (hp : p.Holds s.params.capacity S b) (chk : Nat)
    {i : Nat} (hi : i < s.params.capacity) : (commitEncode p chk s).barCell i = S[i]? := by
  rw [← List.getElem?_take_of_lt hi, ← hp.cells]
  rfl

/-- The commit of a stream of 35 + 11·m modules that starts and ends on a bar: RESULT tells a whole barcode from one
cut off at CAPACITY (R128, R165). -/
theorem resultAgrees_commitEncode {s : State} {p : Packer} {b : Bool} {chk m : Nat} (hlegal : s.params.Legal)
    (hp : p.Holds s.params.capacity S b) (hchk : chk ≤ 102) (hfirst : S[0]? = some true)
    (hlast : S.getLast? = some true) (hlen : S.length = 35 + 11 * m) (hm : m ≤ 2048) :
    ResultAgrees (commitEncode p chk s) := by
  have hvalid : ChksumValid (commitEncode p chk s).chksum := ⟨chk, hchk, rfl⟩
  have hbar := (commitEncode_barLength hlegal hp.ok chk).trans hp.wp
  have hbar0 := (commitEncode_barCell hp chk hlegal.1).trans hfirst
  by_cases hfit : s.params.capacity < S.length
  · have hresult : (commitEncode p chk s).status.result = .truncated := if_pos (hp.tot ▸ hfit)
    simp only [ResultAgrees, hresult]
    exact ⟨hvalid, hbar.trans (Nat.min_eq_left hfit.le), hbar0⟩
  · have hresult : (commitEncode p chk s).status.result = .ok := if_neg (hp.tot ▸ hfit)
    rw [Nat.min_eq_right (Nat.le_of_not_lt hfit)] at hbar
    have hend : (commitEncode p chk s).barCell (S.length - 1) = some true := by
      rw [commitEncode_barCell hp chk (by omega), ← List.getLast?_eq_getElem?, hlast]
    simp only [ResultAgrees, hresult, hbar]
    exact ⟨hvalid, ⟨m, hm, hlen⟩, hbar0, hend⟩

theorem State.Inv.commitEncode {s : State} (hs : s.Inv) (hlen : s.inlen.toNat ≤ s.params.maxInputLen)
    (hvalid : ValidInput s) : (commitEncode (encodeSymbols s).1 (encodeSymbols s).2 s).Inv := by
  have hp := encodeSymbols_holds hvalid
  have hbar := commitEncode_barLength hs.params_legal hp.ok (encodeSymbols s).2
  obtain ⟨-, -, -, hmax⟩ := hs.params_legal
  exact
    { params_legal := hs.params_legal
      length_le := hbar.trans_le hp.ok.wp_le
      bar_cells := hp.ok.wp_eq.symm.trans hbar.symm
      inbuf_wf := hs.inbuf_wf
      inbuf_bound := hs.inbuf_bound
      lkup_word := hs.lkup_word
      result := resultAgrees_commitEncode hs.params_legal hp (encodeSymbols_checksum_le s) (symbolStream_head _)
        (symbolStream_last _) (encodedStream_length hvalid) (by omega) }

theorem State.Inv.encodeEffect {s : State} (hs : s.Inv) : (encodeEffect s).Inv := by
  rcases encodeEffect_cases s with ⟨-, h⟩ | ⟨-, -, h⟩ | ⟨hover, hvalid, h⟩ <;> rw [h]
  · exact hs.failEncode (.inr rfl)
  · exact hs.failEncode (.inl rfl)
  · have hlen : s.inlen.toNat ≤ s.params.maxInputLen := by simpa [inputOverrun] using hover
    exact hs.commitEncode hlen ((inputValid_iff s).1 hvalid)

/-- Every transaction keeps the invariant. -/
theorem State.Inv.exec {i : Instr} {s t : State} (hs : s.Inv) (h : exec i s = .next t) : t.Inv := by
  rcases exec_cases h with ⟨r, rfl⟩ | ⟨c, r, rfl, -⟩ | ⟨v, -, rfl⟩ | ⟨v, -, rfl⟩ | ⟨d, -, rfl⟩ | ⟨d, -, rfl⟩ |
    ⟨k, d, -, hk, rfl⟩
  · exact hs.setReturned r
  · exact (hs.raise c).setReturned r
  · exact hs.encodeEffect.setReturned none
  · exact (hs.setLkup v.toNat).setReturned none
  · exact (hs.setStatus (clearSticky_result d s.status)).setReturned none
  · exact (hs.setInlen (inlenOperand d)).setReturned none
  · exact (hs.writeInbuf hk (inbufOperand d)).setReturned none

/-- Settles O12: each event that step_cases lists keeps the invariant, and a valid ENCODE leaves the first CAPACITY
modules of a stream that starts and ends on a bar. -/
theorem stepKeepsInvariant : Obligations.StepKeepsInvariant := by
  intro s t hs h
  rcases step_cases h with ⟨-, rfl⟩ | ⟨e, rest, -, ⟨-, rfl⟩ | ⟨x, -, hx⟩⟩
  · exact hs
  · exact (hs.setPending rest).assertReset
  · exact (hs.setPending rest).exec hx

end Sys2Proof.Machine
end

section
/-! Which transactions write each register: exec_cases read field by field, and the two ways a step reaches exec_cases. -/

namespace Sys2Proof.Machine

variable {i : Instr} {s t : State}

/-- No transaction writes CAPACITY or MAX_INPUT_LEN (R32). -/
theorem exec_params (h : exec i s = .next t) : t.params = s.params := by
  rcases exec_cases h with ⟨r, rfl⟩ | ⟨c, r, rfl, -⟩ | ⟨v, -, rfl⟩ | ⟨v, -, rfl⟩ | ⟨d, -, rfl⟩ | ⟨d, -, rfl⟩ |
    ⟨k, d, -, -, rfl⟩ <;> simp [encodeEffect_frame]

/-- The barcode and RESULT are ENCODE's alone (R23, R25, R28, R31). -/
theorem exec_sameBarcode_or_encode (h : exec i s = .next t) : SameBarcode s t ∨ ∃ v, i = .encode v := by
  rcases exec_cases h with ⟨r, rfl⟩ | ⟨c, r, rfl, -⟩ | ⟨v, rfl, -⟩ | ⟨v, -, rfl⟩ | ⟨d, -, rfl⟩ | ⟨d, -, rfl⟩ |
    ⟨k, d, -, -, rfl⟩
  case inr.inr.inl => exact .inr ⟨v, rfl⟩ -- ENCODE
  case inr.inl => exact .inl ⟨rfl, Status.raise_result c s.status, rfl, rfl, rfl⟩ -- a recorded condition
  all_goals exact .inl ⟨rfl, rfl, rfl, rfl, rfl⟩

theorem exec_lkup_or_lookup (h : exec i s = .next t) : t.lkup = s.lkup ∨ ∃ v, i = .lookup v := by
  rcases exec_cases h with ⟨r, rfl⟩ | ⟨c, r, rfl, -⟩ | ⟨v, -, rfl⟩ | ⟨v, rfl, -⟩ | ⟨d, -, rfl⟩ | ⟨d, -, rfl⟩ |
    ⟨k, d, -, -, rfl⟩ <;> simp [encodeEffect_frame]

theorem exec_inlen_or_wrInlen (h : exec i s = .next t) : t.inlen = s.inlen ∨ ∃ d, i = .wrInlen d := by
  rcases exec_cases h with ⟨r, rfl⟩ | ⟨c, r, rfl, -⟩ | ⟨v, -, rfl⟩ | ⟨v, -, rfl⟩ | ⟨d, -, rfl⟩ | ⟨d, rfl, -⟩ |
    ⟨k, d, -, -, rfl⟩ <;> simp [encodeEffect_frame]

/-- INBUF's list of cells is as before, or an in-range WR_INBUF has written one cell of it (R30, R183). -/
theorem exec_inbuf_or_wrInbuf (h : exec i s = .next t) :
    t.inbuf = s.inbuf ∨ ∃ j d, i = .wrInbuf j d ∧ j.toNat < s.params.maxInputLen ∧
      t.inbuf = Memory.write s.inbuf j.toNat (inbufOperand d) := by
  rcases exec_cases h with ⟨r, rfl⟩ | ⟨c, r, rfl, -⟩ | ⟨v, -, rfl⟩ | ⟨v, -, rfl⟩ | ⟨d, -, rfl⟩ | ⟨d, -, rfl⟩ |
    ⟨k, d, hi, hk, rfl⟩
  case inr.inr.inr.inr.inr.inr => exact .inr ⟨k, d, hi, hk, rfl⟩ -- an in-range WR_INBUF
  all_goals exact .inl (by simp [encodeEffect_frame])

/-- A sticky bit stays set, or a STATUS write has a 1 in its place (R23, R217). -/
theorem exec_sticky_or_wrStatus {c : Condition} (h : exec i s = .next t) (hc : s.status.sticky c = true) :
    t.status.sticky c = true ∨ ∃ d, i = .wrStatus d ∧ clears d c = true := by
  rcases exec_cases h with ⟨r, rfl⟩ | ⟨c', r, rfl, -⟩ | ⟨v, -, rfl⟩ | ⟨v, -, rfl⟩ | ⟨d, hi, rfl⟩ | ⟨d, -, rfl⟩ |
    ⟨k, d, -, -, rfl⟩
  case inr.inr.inr.inr.inl => -- WR_STATUS
    cases hd : clears d c with
    | true => exact .inr ⟨d, hi, hd⟩
    | false => exact .inl (by simp [Status.sticky_clearSticky, hc, hd])
  all_goals exact .inl (by simp [encodeEffect_frame, Status.sticky_raise, hc])

/-- No step writes CAPACITY or MAX_INPUT_LEN, the reset input included (R32). -/
theorem step_params (h : step s = .next t) : t.params = s.params := by
  rcases step_cases h with ⟨-, rfl⟩ | ⟨e, rest, -, ⟨-, rfl⟩ | ⟨x, -, hx⟩⟩
  · rfl
  · rfl
  · simpa using exec_params hx

/-- No BAR cell at or past CAPACITY holds a value (R32, R36). -/
theorem State.Inv.barCell_eq_none (hs : s.Inv) {k : Nat} (hk : s.params.capacity ≤ k) : s.barCell k = none :=
  List.getElem?_eq_none (hs.bar_cells.trans_le (hs.length_le.trans hk))

end Sys2Proof.Machine
end

section
/-! What the reset state's registers read as: a read hands a word to the port, and a BAR read at or past LENGTH hands 0. -/

namespace Sys2Proof.Machine

theorem State.respond_returns (s : State) (w : Word) : ∃ t, s.respond w = .next t ∧ t.returned = some w :=
  ⟨_, rfl, rfl⟩

/-- STATUS with no sticky bit and RESULT NONE reads 0 (R240). -/
theorem statusWord_reset : statusWord ⟨false, false, false, .none⟩ = 0#32 := by decide

/-- A parameter of a legal instance fits in the 32 bits of a read. -/
theorem numberWord_toNat {n : Nat} (h : n ≤ 4096) : (numberWord n).toNat = n := by
  unfold numberWord
  rw [BitVec.toNat_ofNat]
  omega

/-- A BAR read at or past LENGTH records RANGE and returns 0 (R185). -/
theorem exec_rdBar_past_length {s : State} {k : Index} (h : s.barLength.toNat ≤ k.toNat) (x : Word) :
    exec (.rdBar k x) s = (s.raise .range).respond 0#32 := by
  have hout : ¬ barInRange s k = true := fun hin => Nat.not_lt.2 h (of_decide_eq_true hin)
  exact if_neg hout

/-- The registers of a reset state are the ones R240 lists, and none of its BAR cells holds a value (R241). -/
theorem State.Inv.resetFor {p : Params} (hp : p.Legal) : (State.resetFor p).Inv where
  params_legal := hp
  length_le := Nat.zero_le _
  bar_cells := rfl
  inbuf_wf := Memory.wf_reset p
  inbuf_bound := by simp
  lkup_word := .inl rfl
  result := ⟨rfl, rfl⟩

end Sys2Proof.Machine
end

section
/-! The statements about the state: which transactions and events write it, and what it is after reset. -/

namespace Sys2Proof.Machine

/-- Settles O14: of everything exec_cases lists, only ENCODE writes the barcode and RESULT, and only LOOKUP writes LKUP. -/
theorem barcodeWrittenOnlyByEncode : Obligations.BarcodeWrittenOnlyByEncode := by
  refine fun i s t h => ⟨fun hi => ?_, fun hi => ?_⟩
  · rcases exec_sameBarcode_or_encode h with hsame | ⟨v, rfl⟩
    · exact ⟨hsame.result, hsame.barLength, hsame.chksum, fun k => congrArg (·[k]?) hsame.bar⟩
    · exact absurd rfl (hi v)
  · rcases exec_lkup_or_lookup h with hsame | ⟨v, rfl⟩
    · exact hsame
    · exact absurd rfl (hi v)

/-- Settles O15: an INBUF cell that changed is the one that an in-range WR_INBUF wrote, since a write keeps every other
cell. -/
theorem inputWrittenOnlyByInputWrites : Obligations.InputWrittenOnlyByInputWrites := by
  refine fun i s t h => ⟨fun k hk => ?_, fun hi => ?_⟩
  · unfold State.inbufCell at hk
    rcases exec_inbuf_or_wrInbuf h with hsame | ⟨j, d, rfl, hj, hwrite⟩
    · exact absurd (by rw [hsame]) hk
    · have hjk : k = j.toNat := by
        by_contra hne
        exact hk (by rw [hwrite, Memory.read_write_other _ _ hne])
      exact ⟨j, d, rfl, hjk.symm, hjk ▸ hj⟩
  · rcases exec_inlen_or_wrInlen h with hsame | ⟨d, rfl⟩
    · exact hsame
    · exact absurd rfl (hi d)

/-- Settles O17: of the events that step_cases lists, only the reset input and a STATUS write clear a sticky bit, and
only the reset input and an ENCODE write RESULT. -/
theorem stickyBitsClearedOnlyByStatusWriteOrReset : Obligations.StickyBitsClearedOnlyByStatusWriteOrReset := by
  intro s t h
  rcases step_cases h with ⟨-, rfl⟩ | ⟨e, rest, hpend, ⟨hreset, rfl⟩ | ⟨x, rfl, hx⟩⟩
  · exact ⟨fun c hset hclear => absurd (hset.symm.trans hclear) (by decide), fun hne => absurd rfl hne⟩
  · exact ⟨fun c _ _ => ⟨e, rest, hpend, or_assoc.1 (.inl hreset)⟩, fun _ => ⟨e, rest, hpend, .inl ⟨hreset, rfl⟩⟩⟩
  · refine ⟨fun c hset hclear => ⟨_, rest, hpend, .inr (.inr ?_)⟩, fun hne => ⟨_, rest, hpend, .inr ?_⟩⟩
    · rcases exec_sticky_or_wrStatus hx hset with hstays | ⟨d, hd, hclears⟩
      · exact absurd (hstays.symm.trans hclear) (by decide)
      · exact ⟨x, d, rfl, hd, hclears⟩
    · rcases exec_sameBarcode_or_encode hx with hsame | ⟨v, hv⟩
      · exact absurd hsame.result hne
      · exact ⟨x, v, rfl, hv⟩

/-- Settles O18: the parameters stay, and the invariant, which the step keeps, bounds LENGTH and leaves no value in a
BAR cell at or past CAPACITY, before and after. -/
theorem storeDoesNotGrow : Obligations.StoreDoesNotGrow := by
  intro s t hs h
  have ht : t.Inv := stepKeepsInvariant s t hs h
  have hp : t.params = s.params := step_params h
  refine ⟨hp, hp ▸ ht.length_le, fun k hk => ?_⟩
  rw [ht.barCell_eq_none (hp ▸ hk), hs.barCell_eq_none hk]

/-- Settles O10: each read returns its register's value of R240, a parameter fits in the word, and with LENGTH 0 every
BAR index is past the end. -/
theorem resetRegistersRead : Obligations.ResetRegistersRead := by
  intro p x hp
  obtain ⟨-, hcap, -, hmax⟩ := hp
  refine ⟨State.respond_returns _ _, ⟨_, rfl, congrArg some statusWord_reset⟩, State.respond_returns _ _,
    State.respond_returns _ _, State.respond_returns _ _, State.respond_returns _ _,
    ⟨_, _, rfl, rfl, numberWord_toNat hcap⟩, ⟨_, _, rfl, rfl, numberWord_toNat hmax⟩, fun k => ?_⟩
  rw [exec_rdBar_past_length (Nat.zero_le _)]
  exact State.respond_returns _ _

/-- Settles O13: State.reset is the reset state of an instance whose parameters are legal. -/
theorem resetStateHasInvariant : Obligations.ResetStateHasInvariant :=
  ⟨fun _ hp => .resetFor hp, .resetFor (by decide)⟩

end Sys2Proof.Machine
end

section
/-! The host's window accesses and what a transaction leaves when it is served again in the state it left. -/

namespace Sys2Proof.Machine

variable {i : Instr} {s t : State}

/-! The window transactions as their range checks (R183, R185, R186). -/

theorem exec_rdInbuf (k : Index) (x : Word) (s : State) :
    exec (.rdInbuf k x) s =
      if k.toNat < s.params.maxInputLen then s.respond (byteWord (s.inbufByte k.toNat))
      else (s.raise .range).respond 0#32 :=
  if_congr decide_eq_true_iff rfl rfl

theorem exec_wrInbuf (k : Index) (d : Word) (s : State) :
    exec (.wrInbuf k d) s =
      if k.toNat < s.params.maxInputLen then (s.writeInbuf k.toNat (inbufOperand d)).acknowledge
      else (s.raise .range).acknowledge :=
  if_congr decide_eq_true_iff rfl rfl

theorem exec_rdBar (k : Index) (x : Word) (s : State) :
    exec (.rdBar k x) s =
      if k.toNat < s.barLength.toNat then s.respond (bitWord (s.barBit k.toNat))
      else (s.raise .range).respond 0#32 :=
  if_congr decide_eq_true_iff rfl rfl

/-- The word an INBUF read returns, whether the index is in range or not (R186). -/
theorem exec_rdInbuf_returned {k : Index} {x : Word} (h : exec (.rdInbuf k x) s = .next t) :
    t.returned =
      some (if k.toNat < s.params.maxInputLen then byteWord (s.inbufByte k.toNat) else 0#32) := by
  rw [exec_rdInbuf] at h
  by_cases hk : k.toNat < s.params.maxInputLen
  · rw [if_pos hk] at h ⊢
    obtain rfl := State.respond_next h
    rfl
  · rw [if_neg hk] at h ⊢
    obtain rfl := State.respond_next h
    rfl

/-- A window read whose index passes its range check changes nothing, and one whose index fails it records RANGE only. -/
theorem windowRead_effect {InRange : Prop} [Decidable InRange] {w : Word}
    (h : exec i s = if InRange then s.respond w else (s.raise .range).respond 0#32) :
    ∃ t, exec i s = .next t ∧ if InRange then Untouched s t else RecordsOnly .range s t := by
  by_cases hin : InRange
  · simp only [if_pos hin] at h ⊢
    exact ⟨_, h, untouched_setReturned _ s⟩
  · simp only [if_neg hin] at h ⊢
    exact ⟨_, h, recordsOnly_raise .range _ s⟩

/-! INBUF's bytes after a write. -/

theorem inbufOperand_toNat (d : Word) : (inbufOperand d).toNat = d.toNat % 256 := by
  simp [inbufOperand, BitVec.extractLsb'_toNat]

theorem byteWord_toNat (b : Byte) : (byteWord b).toNat = b.toNat :=
  BitVec.toNat_setWidth_of_le (by decide)

theorem State.inbufByte_writeInbuf_same (s : State) (k : Nat) (b : Byte) : (s.writeInbuf k b).inbufByte k = b :=
  State.inbufByte_of_cell (s.inbufCell_writeInbuf_same k b)

/-- The reset epoch is the same too, so this includes the free byte of a cell not yet written. -/
theorem State.inbufByte_writeInbuf_other (s : State) {k j : Nat} (b : Byte) (h : j ≠ k) :
    (s.writeInbuf k b).inbufByte j = s.inbufByte j := by
  simp [State.inbufByte, s.inbufCell_writeInbuf_other b h]

/-! Serving a transaction again: each effect, applied to the state it left, gives that state. -/

theorem raise_respond_again {c : Condition} {w : Word} (h : (s.raise c).respond w = .next t) :
    (t.raise c).respond w = .next t := by
  obtain rfl := State.respond_next h
  rw [raise_setReturned_raise]
  rfl

theorem raise_acknowledge_again {c : Condition} (h : (s.raise c).acknowledge = .next t) :
    (t.raise c).acknowledge = .next t := by
  obtain rfl := State.acknowledge_next h
  rw [raise_setReturned_raise]
  rfl

theorem clearSticky_clearSticky (d : Word) (st : Status) :
    clearSticky d (clearSticky d st) = clearSticky d st := by
  simp [clearSticky]

/-- The same parameters, INLEN and input bytes give ENCODE the same ending with the same symbols (R169). -/
theorem encodeEffect_of_sameInput (hp : t.params = s.params) (hn : t.inlen = s.inlen)
    (hb : ∀ k, k < s.inlen.toNat → t.inbufByte k = s.inbufByte k) :
    encodeEffect t =
      if inputOverrun s then failEncode .inputOverrun t
      else if !inputValid s then failEncode .invalidInput t
      else commitEncode (encodeSymbols s).1 (encodeSymbols s).2 t := by
  have hover : inputOverrun t = inputOverrun s := by unfold inputOverrun; rw [hp, hn]
  rw [encodeEffect, hover, inputValid_congr hn hb, encodeSymbols_congr hp hn hb]

/-- ENCODE writes nothing that it reads (R171), so a second one takes the same ending and writes the same. -/
theorem encodeEffect_again (s : State) (r : Option Word) :
    encodeEffect ((encodeEffect s).setReturned r) = (encodeEffect s).setReturned r := by
  obtain ⟨hparams, hinlen, -, hinbuf, hresets, -, -⟩ := encodeEffect_frame s
  rw [encodeEffect_of_sameInput (t := (encodeEffect s).setReturned r) hparams hinlen fun k _ =>
    State.inbufByte_congr hinbuf hresets k]
  rcases encodeEffect_cases s with ⟨hover, h⟩ | ⟨hover, hvalid, h⟩ | ⟨hover, hvalid, h⟩ <;> rw [h]
  · rw [if_pos hover]
    rfl
  · rw [if_neg (by simp [hover]), if_pos (by simp [hvalid])]
    rfl
  · rw [if_neg (by simp [hover]), if_neg (by simp [hvalid])]
    rfl

/-- Every transaction, served again in the state it left, leaves that state (R56). -/
theorem exec_again (h : exec i s = .next t) : exec i t = .next t := by
  cases i with
  | rdInbuf k x =>
    have hparams := exec_params h
    rw [exec_rdInbuf] at h ⊢
    rw [hparams]
    by_cases hk : k.toNat < s.params.maxInputLen
    · rw [if_pos hk] at h ⊢
      obtain rfl := State.respond_next h
      rfl
    · rw [if_neg hk] at h ⊢
      exact raise_respond_again h
  | rdBar k x =>
    obtain ⟨-, hlength, -⟩ := (barcodeWrittenOnlyByEncode _ s t h).1 nofun
    rw [exec_rdBar] at h ⊢
    rw [hlength]
    by_cases hk : k.toNat < s.barLength.toNat
    · rw [if_pos hk] at h ⊢
      obtain rfl := State.respond_next h
      rfl
    · rw [if_neg hk] at h ⊢
      exact raise_respond_again h
  | wrInbuf k d =>
    have hparams := exec_params h
    rw [exec_wrInbuf] at h ⊢
    rw [hparams]
    by_cases hk : k.toNat < s.params.maxInputLen
    · rw [if_pos hk] at h ⊢
      obtain rfl := State.acknowledge_next h
      exact congrArg (fun m => ((s.setInbuf m).setReturned none).acknowledge) (Memory.write_write_same ..)
    · rw [if_neg hk] at h ⊢
      exact raise_acknowledge_again h
  | encode v =>
    obtain rfl := State.acknowledge_next h
    exact congrArg (fun u => (u.setReturned none).acknowledge) (encodeEffect_again s none)
  | wrStatus d =>
    obtain rfl := State.acknowledge_next h
    exact congrArg (fun st => (s.setStatus st).acknowledge) (clearSticky_clearSticky d s.status)
  | cmdReserved d | wrRoBarCount d | wrRoConfig g d | wrRoBar k d => exact raise_acknowledge_again h
  | reservedAccess rw a d =>
    cases rw with
    | read => exact raise_respond_again h
    | write => exact raise_acknowledge_again h
  | nop v | lookup v | wrInlen d =>
    obtain rfl := State.acknowledge_next h
    rfl
  | rdCmd x | rdStatus x | rdBarCount x | rdInlen x | rdLkup x | rdChksum x | rdCap x | rdMaxin x =>
    obtain rfl := State.respond_next h
    rfl

/-! The statements about memory. -/

theorem takeEvent_of_pending {e : HostEvent} {rest : List HostEvent} (h : s.pending = e :: rest) :
    s.takeEvent = some (e, s.setPending rest) := by
  simp [State.takeEvent, h]

/-- Settles O6: the oldest event comes off the queue, and a step serves a transaction by exec. -/
theorem stepServesOldestTransaction : Obligations.StepServesOldestTransaction := by
  intro s x rest h
  unfold step
  rw [takeEvent_of_pending h]

/-- Settles O26: the write puts the byte in its cell and keeps every other, and an INBUF read returns the byte of its
cell, or 0 at an index that is out of range before and after. -/
theorem inbufReadAfterWrite : Obligations.InbufReadAfterWrite := by
  intro s t k j d x hk h
  rw [exec_wrInbuf, if_pos hk] at h
  obtain rfl := State.acknowledge_next h
  refine ⟨⟨_, byteWord (inbufOperand d), (exec_rdInbuf ..).trans (if_pos hk), ?_, ?_⟩, fun hjk v w hv hw => ?_⟩
  · exact congrArg (some ∘ byteWord) (s.inbufByte_writeInbuf_same k.toNat (inbufOperand d))
  · rw [byteWord_toNat, inbufOperand_toNat]
  · have hother := s.inbufByte_writeInbuf_other (inbufOperand d) (mt BitVec.eq_of_toNat_eq hjk)
    rw [exec_rdInbuf_returned hv, exec_rdInbuf_returned hw, ← hother]
    rfl

/-- Settles O19: a read only hands a word to the port, after recording one condition where its access is out of range or
reserved; and each effect, applied again, changes nothing. -/
theorem readsHaveNoSideEffectAndAllIsIdempotent : Obligations.ReadsHaveNoSideEffectAndAllIsIdempotent := by
  intro s x
  refine ⟨fun i hi => ?_, fun k => windowRead_effect (exec_rdInbuf k x s), fun k => windowRead_effect (exec_rdBar k x s),
    fun a => ⟨_, rfl, recordsOnly_raise .accErr _ s⟩, fun i t => exec_again⟩
  simp only [List.mem_cons, List.not_mem_nil, or_false] at hi
  rcases hi with rfl | rfl | rfl | rfl | rfl | rfl | rfl | rfl <;> exact ⟨_, rfl, untouched_setReturned _ s⟩

end Sys2Proof.Machine
end

section
/-! Decoding and encoding are inverse to each other (R70, R78): each instruction, each triple of fields. -/

namespace Sys2Proof

/-- What R78 lists for a CMD write whose reserved bits are 0: OP chooses among the commands, V is the operand. -/
theorem decodeCommand_commandWord (op : BitVec 4) (v : Byte) :
    decodeCommand (commandWord op v) =
      if op = 0#4 then .nop v else if op = 1#4 then .encode v else if op = 2#4 then .lookup v
      else .cmdReserved (commandWord op v) := by
  have hmask : ∀ w : BitVec 4, op.setWidth 32 = w.setWidth 32 ↔ op = w := fun w =>
    ⟨fun h => by simpa using congrArg (BitVec.setWidth 4) h, congrArg _⟩
  simp only [decodeCommand, commandWord_masked, commandWord_operand]
  exact if_congr (hmask 0) rfl (if_congr (hmask 1) rfl (if_congr (hmask 2) rfl rfl))

theorem decode_transaction_reserved {a : Addr} (h : addressRegion a = .reserved) (rw : Direction) (d : Word) :
    decode (transaction rw a d) = .reservedAccess rw a d := by
  rw [decode_transaction, h]
  cases rw <;> rfl

/-- Settles O1: the fields of the encoded transaction are the row's RW, ADDR and DATA, and the decoder reads the row's
region and operand off them. -/
theorem decodeOfEncodeGivesInstructionBack : Obligations.DecodeOfEncodeGivesInstructionBack := by
  intro i hwf
  cases i with
  | nop v | encode v | lookup v => exact (decode_transaction ..).trans (decodeCommand_commandWord ..)
  | cmdReserved d => exact (decode_transaction ..).trans (decodeCommand_reserved hwf)
  | rdCmd d | rdStatus d | wrStatus d | rdBarCount d | rdInlen d | wrInlen d | rdLkup d | rdChksum d | rdCap d
  | rdMaxin d | wrRoBarCount d => exact decode_transaction ..
  | rdInbuf k d | wrInbuf k d => rw [encodeInstr, decode_transaction, addressRegion_inbuf]
  | rdBar k d | wrRoBar k d => rw [encodeInstr, decode_transaction, addressRegion_bar]
  | wrRoConfig g d => rw [encodeInstr, decode_transaction, addressRegion_config]
  | reservedAccess rw a d => exact decode_transaction_reserved (addressRegion_reserved hwf) rw d

/-- The round trip from the three fields of a transaction: the address is the one its region stands for, and a region
and a direction name the row. -/
theorem decode_transaction_spec (rw : Direction) (a : Addr) (d : Word) :
    (decode (transaction rw a d)).wf = true ∧ encodeInstr (decode (transaction rw a d)) = transaction rw a d := by
  have haddr := addressRegion_spec a
  cases hregion : addressRegion a
  case reserved =>
    rw [decode_transaction_reserved hregion]
    exact ⟨isReservedAddr_of_region hregion, rfl⟩
  all_goals
    rw [decode_transaction, hregion]
    rw [hregion] at haddr
    dsimp only at haddr
    subst haddr
  case cmd =>
    cases rw with
    | read => exact ⟨rfl, rfl⟩
    | write => exact decodeCommand_spec d
  case config g =>
    cases rw with
    | read => cases g <;> exact ⟨rfl, rfl⟩
    | write => exact ⟨rfl, rfl⟩
  all_goals cases rw <;> exact ⟨rfl, rfl⟩

/-- Settles O2: a transaction is its three fields, and the round trip holds from any three fields. -/
theorem encodeOfDecodeGivesTransactionBack : Obligations.EncodeOfDecodeGivesTransactionBack := by
  intro t
  rw [← transaction_fields t]
  exact decode_transaction_spec ..

end Sys2Proof
end

section
/-! The table of R78 as masks over the three fields, and its rows against each other. -/

namespace Sys2Proof

/-! Masking a transaction masks each field (R70). -/

theorem transactionAddr_and (t u : Transaction) : transactionAddr (t &&& u) = transactionAddr t &&& transactionAddr u :=
  BitVec.extractLsb'_and

theorem transactionData_and (t u : Transaction) : transactionData (t &&& u) = transactionData t &&& transactionData u :=
  BitVec.extractLsb'_and

theorem transactionDirection_and_write (t : Transaction) (ma : Addr) (md : Word) :
    transactionDirection (t &&& transaction .write ma md) = transactionDirection t := by
  have hbit : (transaction .write ma md).getLsbD 48 = true := by
    simpa [transactionDirection] using transactionDirection_transaction .write ma md
  simp [transactionDirection, hbit]

theorem transaction_and_write (rw : Direction) (a ma : Addr) (d md : Word) :
    transaction rw a d &&& transaction .write ma md = transaction rw (a &&& ma) (d &&& md) :=
  transaction_ext (by simp [transactionDirection_and_write]) (by simp [transactionAddr_and])
    (by simp [transactionData_and])

theorem OpcodeRow.matches_iff {r : OpcodeRow} {t : Transaction} :
    r.matches t = true ↔ t &&& r.maskBits = r.matchBits :=
  beq_iff_eq

/-- A row of R78 by the fields it compares: RW, and ADDR and DATA under a mask. -/
def fieldRow (n : Nat) (rw : Direction) (a ma : Addr) (d md : Word) : OpcodeRow :=
  ⟨n, transaction rw a d, transaction .write ma md⟩

theorem fieldRow_matches {n : Nat} {rw : Direction} {a a' ma : Addr} {d d' md : Word} (ha : a &&& ma = a')
    (hd : d &&& md = d') : (fieldRow n rw a' ma d' md).matches (transaction rw a d) = true := by
  rw [OpcodeRow.matches_iff, fieldRow, transaction_and_write, ha, hd]

/-- What a row that matches asks of ADDR and DATA, whatever its mask. -/
theorem OpcodeRow.fields_of_matches {r : OpcodeRow} {rw : Direction} {a : Addr} {d : Word}
    (h : r.matches (transaction rw a d) = true) :
    a &&& transactionAddr r.maskBits = transactionAddr r.matchBits ∧
      d &&& transactionData r.maskBits = transactionData r.matchBits := by
  rw [← OpcodeRow.matches_iff.1 h, transactionAddr_and, transactionData_and, transactionAddr_transaction,
    transactionData_transaction]
  exact ⟨rfl, rfl⟩

/-- Two rows that both match one transaction agree wherever both look. -/
theorem OpcodeRow.agree_of_matches {r r' : OpcodeRow} {t : Transaction} (h : r.matches t = true)
    (h' : r'.matches t = true) : r.matchBits &&& r'.maskBits = r'.matchBits &&& r.maskBits := by
  rw [← matches_iff.1 h, ← matches_iff.1 h', BitVec.and_assoc, BitVec.and_assoc, BitVec.and_comm r.maskBits]

/-- Rows 1 to 3 and 5 to 20 disagree with every row before them. -/
theorem opcodeTable_disagree :
    ∀ r ∈ opcodeTable, ∀ r' ∈ opcodeTable, r.number ≠ 4 → r.number ≠ 21 → r'.number < r.number →
      r.matchBits &&& r'.maskBits ≠ r'.matchBits &&& r.maskBits := by decide

theorem opcodeTable_sorted : opcodeTable.Pairwise (fun r r' => r.number < r'.number) := by decide

/-- The first match is the matching row with the least number. -/
theorem firstMatchingRow_of_least {t : Transaction} {r : OpcodeRow} (hr : r ∈ opcodeTable) (hmatch : r.matches t = true)
    (hleast : ∀ r' ∈ opcodeTable, r'.number < r.number → r'.matches t ≠ true) :
    firstMatchingRow t = some r.number := by
  obtain ⟨before, after, htable⟩ := List.append_of_mem hr
  have hsorted := opcodeTable_sorted
  rw [htable, List.pairwise_append] at hsorted
  obtain ⟨-, -, hbefore⟩ := hsorted
  have hfind : opcodeTable.find? (fun r => r.matches t) = some r := by
    refine List.find?_eq_some_iff_append.2 ⟨hmatch, before, after, htable, fun r' hr' => ?_⟩
    have hmem : r' ∈ opcodeTable := htable ▸ List.mem_append_left _ hr'
    simpa using hleast r' hmem (hbefore r' hr' r List.mem_cons_self)
  simp [firstMatchingRow, hfind]

/-! The row of each instruction matches its encoding. -/

theorem windowAddr_masked (w : BitVec 4) (k : Index) : windowAddr w k &&& 0xF000#16 = windowAddr w 0#12 := by
  rw [← windowAddr_fields (windowAddr w k &&& 0xF000#16), BitVec.extractLsb'_and, BitVec.extractLsb'_and,
    windowAddr_window, windowAddr_index]
  congr 1
  · exact BitVec.and_allOnes
  · exact BitVec.and_zero

theorem configAddr_masked (g : ConfigTarget) : configAddr g &&& 0xFFFC#16 = configAddr .lkup := by
  cases g <;> rfl

/-- The row of an instruction: the commands compare ADDR and the command word without V, the windows RW and the window
number, WR_RO_CONFIG all but ADDR[1:0], RESERVED_ACCESS nothing, and every other row RW and ADDR. -/
theorem exists_row_matches (i : Instr) : ∃ r ∈ opcodeTable, r.number = i.row ∧ r.matches (encodeInstr i) = true := by
  cases i with
  | nop v =>
    exact ⟨fieldRow 1 .write 0 0xFFFF 0 0xFFFF00FF, by decide, rfl, fieldRow_matches rfl (commandWord_masked ..)⟩
  | encode v =>
    exact ⟨fieldRow 2 .write 0 0xFFFF 1 0xFFFF00FF, by decide, rfl, fieldRow_matches rfl (commandWord_masked ..)⟩
  | lookup v =>
    exact ⟨fieldRow 3 .write 0 0xFFFF 2 0xFFFF00FF, by decide, rfl, fieldRow_matches rfl (commandWord_masked ..)⟩
  | cmdReserved d => exact ⟨fieldRow 4 .write 0 0xFFFF 0 0, by decide, rfl, fieldRow_matches rfl BitVec.and_zero⟩
  | rdCmd d => exact ⟨fieldRow 5 .read 0 0xFFFF 0 0, by decide, rfl, fieldRow_matches rfl BitVec.and_zero⟩
  | rdStatus d => exact ⟨fieldRow 6 .read 1 0xFFFF 0 0, by decide, rfl, fieldRow_matches rfl BitVec.and_zero⟩
  | wrStatus d => exact ⟨fieldRow 7 .write 1 0xFFFF 0 0, by decide, rfl, fieldRow_matches rfl BitVec.and_zero⟩
  | rdBarCount d => exact ⟨fieldRow 8 .read 2 0xFFFF 0 0, by decide, rfl, fieldRow_matches rfl BitVec.and_zero⟩
  | rdInlen d => exact ⟨fieldRow 9 .read 3 0xFFFF 0 0, by decide, rfl, fieldRow_matches rfl BitVec.and_zero⟩
  | wrInlen d => exact ⟨fieldRow 10 .write 3 0xFFFF 0 0, by decide, rfl, fieldRow_matches rfl BitVec.and_zero⟩
  | rdLkup d => exact ⟨fieldRow 11 .read 4 0xFFFF 0 0, by decide, rfl, fieldRow_matches rfl BitVec.and_zero⟩
  | rdChksum d => exact ⟨fieldRow 12 .read 5 0xFFFF 0 0, by decide, rfl, fieldRow_matches rfl BitVec.and_zero⟩
  | rdCap d => exact ⟨fieldRow 13 .read 6 0xFFFF 0 0, by decide, rfl, fieldRow_matches rfl BitVec.and_zero⟩
  | rdMaxin d => exact ⟨fieldRow 14 .read 7 0xFFFF 0 0, by decide, rfl, fieldRow_matches rfl BitVec.and_zero⟩
  | rdInbuf k d =>
    exact ⟨fieldRow 15 .read 0x1000 0xF000 0 0, by decide, rfl, fieldRow_matches (windowAddr_masked ..) BitVec.and_zero⟩
  | wrInbuf k d =>
    exact ⟨fieldRow 16 .write 0x1000 0xF000 0 0, by decide, rfl, fieldRow_matches (windowAddr_masked ..) BitVec.and_zero⟩
  | rdBar k d =>
    exact ⟨fieldRow 17 .read 0x2000 0xF000 0 0, by decide, rfl, fieldRow_matches (windowAddr_masked ..) BitVec.and_zero⟩
  | wrRoBarCount d => exact ⟨fieldRow 18 .write 2 0xFFFF 0 0, by decide, rfl, fieldRow_matches rfl BitVec.and_zero⟩
  | wrRoConfig g d =>
    exact ⟨fieldRow 19 .write 4 0xFFFC 0 0, by decide, rfl, fieldRow_matches (configAddr_masked g) BitVec.and_zero⟩
  | wrRoBar k d =>
    exact ⟨fieldRow 20 .write 0x2000 0xF000 0 0, by decide, rfl, fieldRow_matches (windowAddr_masked ..) BitVec.and_zero⟩
  | reservedAccess rw a d => exact ⟨⟨21, 0, 0⟩, by decide, rfl, OpcodeRow.matches_iff.2 BitVec.and_zero⟩

/-! The two rows that other rows overlap: what their words and addresses are not. -/

theorem reservedCommand_masked_ne {d : Word} (h : isReservedCommand d = true) {op : BitVec 4} (hop : op.toNat < 3) :
    d &&& 0xFFFF00FF#32 ≠ op.setWidth 32 := by
  intro hmask
  obtain ⟨hOp, hlow, hhigh⟩ := (masked_eq_iff d op).1 hmask
  have hge : 3 ≤ op.toNat := by simpa [isReservedCommand, hOp, hlow, hhigh] using h
  omega

/-- Rows 1 to 3 do not match a reserved command word (R75). -/
theorem commandRow_not_matches {d : Word} (h : isReservedCommand d = true) :
    ∀ r ∈ opcodeTable, r.number < 4 → ∀ (rw : Direction) (a : Addr), r.matches (transaction rw a d) ≠ true := by
  have hrows : ∀ r ∈ opcodeTable, r.number < 4 → transactionData r.maskBits = 0xFFFF00FF#32 ∧
      ∃ op : BitVec 4, op.toNat < 3 ∧ transactionData r.matchBits = op.setWidth 32 := by decide
  intro r hr hnumber rw a hmatch
  obtain ⟨hmask, op, hop, hbits⟩ := hrows r hr hnumber
  obtain ⟨-, hdata⟩ := OpcodeRow.fields_of_matches hmatch
  rw [hmask, hbits] at hdata
  exact reservedCommand_masked_ne h hop hdata

/-- A mask that clears the low `k` bits keeps the number above them. -/
theorem toNat_div_of_highMask {n : Nat} {a a' : BitVec n} (k : Nat) (h : a &&& BitVec.allOnes n <<< k = a') :
    a.toNat / 2 ^ k = a'.toNat / 2 ^ k := by
  have hshift : (a &&& BitVec.allOnes n <<< k) >>> k = a >>> k := by
    ext i hi
    simpa [hi] using BitVec.lt_of_getLsbD
  simpa [h, Nat.shiftRight_eq_div_pow] using congrArg BitVec.toNat hshift.symm

/-- Rows 1 to 20 do not match a reserved address (R76): a row asks for a window number or for an address below 8. -/
theorem addressRow_not_matches {a : Addr} (h : isReservedAddr a = true) :
    ∀ r ∈ opcodeTable, r.number < 21 → ∀ (rw : Direction) (d : Word), r.matches (transaction rw a d) ≠ true := by
  have hrows : ∀ r ∈ opcodeTable, r.number < 21 →
      (transactionAddr r.maskBits = 0xF000#16 ∧
        ((transactionAddr r.matchBits).toNat / 4096 = 1 ∨ (transactionAddr r.matchBits).toNat / 4096 = 2)) ∨
      (transactionAddr r.maskBits &&& 0xFFF8#16 = 0xFFF8#16 ∧ transactionAddr r.matchBits &&& 0xFFF8#16 = 0#16) := by
    decide
  have ha : (8 ≤ a.toNat ∧ a.toNat ≤ 0xFFF) ∨ 0x3000 ≤ a.toNat := by simpa [isReservedAddr] using h
  intro r hr hnumber rw d hmatch
  obtain ⟨haddr, -⟩ := OpcodeRow.fields_of_matches hmatch
  rcases hrows r hr hnumber with ⟨hmask, hbits⟩ | ⟨hmask, hbits⟩
  · rw [hmask] at haddr
    have hwindow : a.toNat / 4096 = (transactionAddr r.matchBits).toNat / 4096 := toNat_div_of_highMask 12 haddr
    omega
  · have hlow : a &&& 0xFFF8#16 = 0#16 := by rw [← hmask, ← BitVec.and_assoc, haddr, hbits]
    have hregister : a.toNat / 8 = 0 := toNat_div_of_highMask 3 hlow
    omega

/-- The first row that matches an encoded instruction is its own: the rows before it either disagree with it, or ask for
a command word or an address that the instruction's own check shuts out. -/
theorem firstMatchingRow_encodeInstr {i : Instr} (hwf : i.wf = true) :
    firstMatchingRow (encodeInstr i) = some i.row := by
  obtain ⟨r, hr, hrow, hmatch⟩ := exists_row_matches i
  rw [← hrow]
  refine firstMatchingRow_of_least hr hmatch fun r' hr' hlt => ?_
  have hdisagree : r.number ≠ 4 → r.number ≠ 21 → r'.matches (encodeInstr i) ≠ true := fun h4 h21 hmatch' =>
    opcodeTable_disagree r hr r' hr' h4 h21 hlt (OpcodeRow.agree_of_matches hmatch hmatch')
  rw [hrow] at hlt hdisagree
  cases i with
  | cmdReserved d => exact commandRow_not_matches hwf r' hr' hlt _ _
  | reservedAccess rw a d => exact addressRow_not_matches hwf r' hr' hlt _ _
  | _ => exact hdisagree nofun nofun

/-- Settles O3: a transaction is the encoding of what it decodes to, whose own row is the first that matches; two rows
that match one transaction agree, and rows 1 to 3 and 5 to 20 disagree pairwise. -/
theorem decoderTakesFirstMatchingRow : Obligations.DecoderTakesFirstMatchingRow := by
  refine ⟨fun t => ?_, fun t r hr h21 => ?_, fun t r hr r' hr' h4 h21 h4' h21' hmatch hmatch' => ?_⟩
  · obtain ⟨hwf, hencode⟩ := encodeOfDecodeGivesTransactionBack t
    simpa only [hencode] using firstMatchingRow_encodeInstr hwf
  · have hrow : ∀ r ∈ opcodeTable, r.number = 21 → r = ⟨21, 0, 0⟩ := by decide
    rw [hrow r hr h21]
    exact OpcodeRow.matches_iff.2 BitVec.and_zero
  · have hagree := OpcodeRow.agree_of_matches hmatch hmatch'
    rcases Nat.lt_trichotomy r.number r'.number with hlt | heq | hlt
    · exact absurd hagree.symm (opcodeTable_disagree r' hr' r hr h4' h21' hlt)
    · exact heq
    · exact absurd hagree (opcodeTable_disagree r hr r' hr' h4 h21 hlt)

end Sys2Proof
end

section
/-! The assembler's lines are encodings, so what they decode to is the round trip (R79 to R81); and the reserved command
word (R75). -/

namespace Sys2Proof.Machine

theorem decode_wr_inbufCell (k : Index) (d : Word) : decode (assembleLine (.wr (.inbufCell k) d)) = .wrInbuf k d :=
  decodeOfEncodeGivesInstructionBack (.wrInbuf k d) rfl

theorem decode_wr_inlen (d : Word) : decode (assembleLine (.wr .INLEN d)) = .wrInlen d :=
  decodeOfEncodeGivesInstructionBack (.wrInlen d) rfl

theorem decode_rd_barCell (k : Index) : decode (assembleLine (.rd (.barCell k))) = .rdBar k 0#32 :=
  decodeOfEncodeGivesInstructionBack (.rdBar k 0#32) rfl

/-- R80's word for `lookup v` is the command word of OP 2 with operand `v`. -/
theorem lookupWord_eq_commandWord {v : Nat} (h : v ≤ 255) :
    BitVec.ofNat 32 v <<< 8 ||| 0x00000002#32 = commandWord 0x2#4 (BitVec.ofNat 8 v) := by
  have hoperand : BitVec.ofNat 32 v = (BitVec.ofNat 8 v).setWidth 32 := by
    apply BitVec.eq_of_toNat_eq
    simp only [BitVec.toNat_ofNat, BitVec.toNat_setWidth]
    omega
  rw [hoperand]
  rfl

theorem decode_wr_lookup {v : Nat} (h : v ≤ 255) :
    decode (assembleLine (.wr .CMD (BitVec.ofNat 32 v <<< 8 ||| 0x00000002#32))) = .lookup (BitVec.ofNat 8 v) := by
  rw [lookupWord_eq_commandWord h]
  exact decodeOfEncodeGivesInstructionBack (.lookup (BitVec.ofNat 8 v)) rfl

/-- The INBUF writes of `load` fill the cells from `k` on, one byte each. -/
theorem decode_loadLines (s : List Byte) (k : Nat) :
    ((loadLines k s).map assembleLine).map decode =
      s.mapIdx (fun j b => .wrInbuf (BitVec.ofNat 12 (k + j)) (byteWord b)) := by
  induction s generalizing k with
  | nil => rfl
  | cons b bs ih =>
    simp only [loadLines, List.map_cons, decode_wr_inbufCell, ih, List.mapIdx_cons]
    simp [byteWord, Nat.add_assoc, Nat.add_comm 1]

/-- What a `load` and the lines after it decode to, refused as a whole where the `load` does not fit. -/
theorem decode_expandLoad_append (p : Params) (s : List Byte) (after : List AsmLine) :
    ((expandLoad p s).map (· ++ after)).map (fun ls => (ls.map assembleLine).map decode) =
      if s.length ≤ p.maxInputLen ∧ s.length ≤ 4096 then
        some (s.mapIdx (fun k b => .wrInbuf (BitVec.ofNat 12 k) (byteWord b)) ++
          .wrInlen (BitVec.ofNat 32 s.length) :: (after.map assembleLine).map decode)
      else none := by
  by_cases hfits : s.length ≤ p.maxInputLen ∧ s.length ≤ 4096
  · simp [expandLoad, hfits, decode_loadLines, decode_wr_inlen, -List.map_map]
  · simp [expandLoad, hfits]

/-- Settles O5: each line of an expansion is the encoding of the instruction it decodes to, and the bounds of the two
sides are the same. -/
theorem pseudoInstructionsDecodeAsExpanded : Obligations.PseudoInstructionsDecodeAsExpanded := by
  intro p
  refine ⟨rfl, rfl, fun v => ?_, rfl, rfl, fun i => ?_, fun s => ?_, fun s => ?_⟩
  · by_cases hv : v ≤ 255
    · simp [assemblePseudo, expandPseudo, hv, decode_wr_lookup hv]
    · simp [assemblePseudo, expandPseudo, hv]
  · by_cases hi : i ≤ 4095
    · simp [assemblePseudo, expandPseudo, hi, decode_rd_barCell]
    · simp [assemblePseudo, expandPseudo, hi]
  · have hload := decode_expandLoad_append p s []
    simpa [assemblePseudo, expandPseudo, Function.comp_def] using hload
  · have hencode : decode (assembleLine (.wr .CMD 0x00000001#32)) = .encode 0 := rfl
    have hload := decode_expandLoad_append p s [.wr .CMD 0x00000001#32]
    simpa [assemblePseudo, expandPseudo, Function.comp_def, hencode] using hload

/-- Settles O30: R75's words are the well-formed CMD_RESERVED instructions, so the round trip decodes them; BADCMD is
recorded, and recording it again changes nothing. -/
theorem reservedCommandSetsBadcmd : Obligations.ReservedCommandSetsBadcmd := by
  intro s d hreserved
  have hwf : (Instr.cmdReserved d).wf = true := by simpa [Instr.wf, isReservedCommand, or_assoc] using hreserved
  exact ⟨decodeOfEncodeGivesInstructionBack (.cmdReserved d) hwf, _, rfl, rfl, recordsOnly_raise .badCmd none s,
    raise_acknowledge_again rfl⟩

/-- Settles O4: each printed word, once assembled and once decoded. -/
theorem workedEncodings : Obligations.WorkedEncodings :=
  ⟨fun _ => rfl, by decide, fun _ => rfl, by decide, fun _ => rfl, by decide, by decide, by decide, by decide, by decide,
    fun _ => rfl, by decide⟩

end Sys2Proof.Machine
end

section
/-! The symbol ROM (R101 to R104) and the fields of LKUP after LOOKUP (R27, R106). -/

namespace Sys2Proof.Machine

/-- Where a lookup hits (R104). -/
theorem romTable_getElem? {v : Nat} (h : v ≤ 106) : romTable[v]? = some (lookup v) := by
  have hlength : romTable.length = 107 := rfl
  simp [lookup, h, show v < romTable.length by omega]

/-- Where a lookup misses (R104). -/
theorem lookup_miss {v : Nat} (h : 106 < v) : lookup v = [] := if_neg (by omega)

theorem lookup_mem_or_eq_nil (v : Nat) : lookup v ∈ romTable ∨ lookup v = [] := by
  rcases Nat.lt_or_ge 106 v with hmiss | hhit
  · exact .inr (lookup_miss hmiss)
  · exact .inl (List.mem_of_getElem? (romTable_getElem? hhit))

/-- No entry has more runs than LKUP has nibbles below COUNT. -/
theorem lookup_length_le (v : Nat) : (lookup v).length ≤ 7 := by
  have hrom : ∀ w ∈ romTable, w.length ≤ 7 := by decide
  rcases lookup_mem_or_eq_nil v with hhit | hmiss
  · exact hrom _ hhit
  · simp [hmiss]

theorem romTable_run_bounds : ∀ w ∈ romTable, ∀ n ∈ w, 1 ≤ n ∧ n ≤ 4 := by decide

/-- Every run fits its nibble; past the last run 0 is read. -/
theorem lookup_getD_le (v k : Nat) : (lookup v).getD k 0 ≤ 4 := by
  rcases Nat.lt_or_ge k (lookup v).length with hk | hk
  · rw [List.getD_eq_getElem _ _ hk]
    rcases lookup_mem_or_eq_nil v with hhit | hmiss
    · exact (romTable_run_bounds _ hhit _ (List.getElem_mem hk)).2
    · simp [hmiss] at hk
  · rw [List.getD_eq_default _ _ hk]
    omega

/-- Four bits placed at bit `4 * j` of a word, read at bit `4 * k`. -/
theorem extractLsb'_placed_nibble (x : BitVec 4) {j : Nat} (k : Nat) (hj : j < 8) :
    (x.setWidth 32 <<< (4 * j)).extractLsb' (4 * k) 4 = if j = k then x else 0#4 := by
  ext i hi
  rcases Nat.lt_trichotomy j k with h | rfl | h
  · simp [h.ne, show 4 ≤ 4 * k + i - 4 * j by omega]
  · simp [show 4 * j + i < 32 by omega, hi]
  · simp [h.ne', show 4 * k + i < 4 * j by omega]

/-- The fields of LKUP: run k in nibble k, the number of runs in nibble 7 (R27). -/
theorem lkupWord_field (w : List Nat) {k : Nat} (hk : k < 8) :
    (lkupWord w).extractLsb' (4 * k) 4 = if k = 7 then BitVec.ofNat 4 w.length else lkupNibble w k := by
  have hplace {j : Nat} (hj : j < 8) (x : BitVec 4) := extractLsb'_placed_nibble x k hj
  have hplace0 (x : BitVec 4) : (x.setWidth 32).extractLsb' (4 * k) 4 = if 0 = k then x else 0#4 := by
    simpa using hplace (j := 0) (by omega) x
  simp only [lkupWord, BitVec.extractLsb'_or, hplace0, hplace (j := 7) (by omega), hplace (j := 6) (by omega),
    hplace (j := 5) (by omega), hplace (j := 4) (by omega), hplace (j := 3) (by omega), hplace (j := 2) (by omega),
    hplace (j := 1) (by omega)]
  interval_cases k <;> simp

theorem lkupWord_lookup_count (v : Nat) :
    ((lkupWord (lookup v)).extractLsb' 28 4).toNat = (lookup v).length := by
  have hlength := lookup_length_le v
  rw [lkupWord_field (lookup v) (k := 7) (by omega), if_pos rfl, BitVec.toNat_ofNat]
  omega

theorem lkupWord_lookup_run (v : Nat) {k : Nat} (hk : k < 7) :
    ((lkupWord (lookup v)).extractLsb' (4 * k) 4).toNat = (lookup v).getD k 0 := by
  have hrun := lookup_getD_le v k
  rw [lkupWord_field (lookup v) (by omega), if_neg (by omega), lkupNibble, BitVec.toNat_ofNat]
  omega

theorem exec_lookup (v : Byte) (s : State) :
    exec (.lookup v) s = .next ((s.setLkup (lkupWord (lookup v.toNat))).setReturned none) := rfl

/-- Settles O33: the word that LOOKUP writes has the entry's length and runs as its fields, since they fit four bits. -/
theorem lookupPacksWeights : Obligations.LookupPacksWeights := fun s v =>
  ⟨decodeOfEncodeGivesInstructionBack (.lookup v) rfl, _, exec_lookup v s, rfl, lkupWord_lookup_count v.toNat,
    fun _ hk => lkupWord_lookup_run v.toNat hk, lkupWord_lookup_miss, rfl, rfl, rfl, rfl, rfl, fun _ => rfl,
    fun _ => rfl, rfl, rfl⟩

/-- The row of R101's table that the weights `w` stand for. -/
def symbolRow (w : List Nat) : PrintedSymbol where
  weights := digitsNumber 10 w
  modules := w.sum
  pattern := digitsNumber 2 ((expand w true).map Bool.toNat)
  lkup := lkupWord w

theorem printedSymbols_eq_map_symbolRow : printedSymbols = romTable.map symbolRow := by decide

/-- The printed table ends where the ROM does, and row `v` is the row of the weights that `v` looks up. -/
theorem printedSymbols_row {v : Nat} {row : PrintedSymbol} (h : printedSymbols[v]? = some row) :
    v ≤ 106 ∧ row = symbolRow (lookup v) := by
  rw [printedSymbols_eq_map_symbolRow, List.getElem?_map, Option.map_eq_some_iff] at h
  obtain ⟨w, hw, rfl⟩ := h
  have hv : v < 107 := (List.getElem?_eq_some_iff.1 hw).1
  have hhit := romTable_getElem? (v := v) (by omega)
  exact ⟨by omega, congrArg symbolRow (Option.some.inj (hw.symm.trans hhit))⟩

/-- Bar runs of a six-run entry sum to an even number (R103). -/
theorem lookup_bar_runs_even :
    ∀ v ≤ 105, ((lookup v).getD 0 0 + (lookup v).getD 2 0 + (lookup v).getD 4 0) % 2 = 0 := by decide

/-- Settles O34: the printed table is the ROM with `symbolRow` taken of each entry; the rest is checked on the ROM. -/
theorem romEntriesHaveStatedWidths : Obligations.RomEntriesHaveStatedWidths := by
  refine ⟨rfl, rfl, fun v row hrow => ?_, fun v hv => lookup_symbol v (Nat.le_of_lt_succ (List.mem_range.1 hv)),
    rfl, rfl, romTable_run_bounds, by decide,
    fun v hv => lookup_bar_runs_even v (Nat.le_of_lt_succ (List.mem_range.1 hv)), rfl, rfl,
    fun _ => romTable_getElem?, fun _ => lookup_miss⟩
  obtain ⟨hv, rfl⟩ := printedSymbols_row hrow
  refine ⟨rfl, rfl, rfl, fun s => ⟨_, exec_lookup _ s, ?_⟩⟩
  have hoperand : (BitVec.ofNat 8 v).toNat = v := by
    rw [BitVec.toNat_ofNat]
    omega
  simp [symbolRow, hoperand]

end Sys2Proof.Machine
end

section
/-! AppendSymbol in one statement: what it writes, counts and flips, from any packer in order (R120, R122, R125). -/

namespace Sys2Proof.Machine

/-- An even number of flips gives the polarity back, an odd number turns it over. -/
theorem iterate_not (n : Nat) (b : Bool) : (!·)^[n] b = if n % 2 = 0 then b else !b := by
  split
  · rw [Bool.involutive_not.iterate_even (Nat.even_iff.2 ‹_›), id]
  · rw [Bool.involutive_not.iterate_odd (Nat.odd_iff.2 (by omega))]

/-- AppendSymbol run by run: every module behind the cells, cut off at CAPACITY, all of them counted, and one polarity
flip per run. -/
theorem appendSymbol_spec {capacity : Nat} (w : List Nat) {p : Packer} (h : p.Ok capacity) :
    (appendSymbol capacity w p).Ok capacity ∧
      (appendSymbol capacity w p).cells = (p.cells ++ expand w p.pol).take capacity ∧
      (appendSymbol capacity w p).tot = p.tot + w.sum ∧ (appendSymbol capacity w p).pol = (!·)^[w.length] p.pol := by
  induction w generalizing p with
  | nil =>
    have hfit : p.cells.length ≤ capacity := h.wp_eq ▸ h.wp_le
    exact ⟨h, by simp [appendSymbol, expand, List.take_of_length_le hfit], rfl, rfl⟩
  | cons n w ih =>
    obtain ⟨hok, hcells, htot, hpol⟩ := packRun_spec n h
    obtain ⟨hok', hcells', htot', hpol'⟩ := ih (p := flipPolarity (packRun capacity n p)) ⟨hok.wp_eq, hok.wp_le⟩
    refine ⟨hok', ?_, ?_, ?_⟩
    · rw [appendSymbol, hcells', flipPolarity_cells, hcells, flipPolarity_pol, hpol, take_take_append, expand,
        List.append_assoc]
    · rw [appendSymbol, htot', flipPolarity_tot, htot, List.sum_cons, Nat.add_assoc]
    · rw [appendSymbol, hpol', flipPolarity_pol, hpol, List.length_cons, Function.iterate_succ_apply]

/-- Settles O35: by induction on the runs; WP counts the cells, so it is their length cut off at CAPACITY. -/
theorem appendSymbolWritesExpansion : Obligations.AppendSymbolWritesExpansion := by
  intro capacity w p hwp hle
  obtain ⟨hok, hcells, htot, hpol⟩ := appendSymbol_spec w (p := p) ⟨hwp, hle⟩
  have hlength := expand_length w p.pol
  refine ⟨hcells, ?_, htot, hpol.trans (iterate_not w.length p.pol), hlength⟩
  rw [hok.wp_eq, hcells, List.length_take, List.length_append, hlength, ← hwp, Nat.min_comm]

end Sys2Proof.Machine
end

section
/-! The checksum symbol that ENCODE computes is the closed form of R145, so what drives the packer is the full bit
stream of the input (R126), which starts and ends on a bar. -/

namespace Sys2Proof.Machine

/-- The sequencer's loop adds the positional sum of its pairs to the accumulator, modulo 103 (R141, R145). -/
theorem encodePairs_acc (s : State) (m j : Nat) (q : Sequencer) :
    (encodePairs s m (j + 1) q).acc % 103 =
      (q.acc + positionalSum (j + 1) ((List.range' j m).map (pairAt s))) % 103 := by
  induction m generalizing j q with
  | zero => rfl
  | succ m ih =>
    rw [encodePairs, ih (j + 1), List.range'_succ, List.map_cons, positionalSum, ← Nat.add_assoc]
    exact Nat.mod_add_mod _ _ _

/-- The checksum symbol value of an ENCODE, in closed form (R145). -/
theorem encodeSymbols_checksum (s : State) : (encodeSymbols s).2 = checksumOf (inputSymbols s) := by
  rw [inputSymbols_eq_map, List.range_eq_range']
  exact encodePairs_acc s (s.inlen.toNat / 2) 0 _

/-- The full bit stream S as a stream of START-C, the data, the checksum symbol, and STOP (R126, R163). -/
theorem fullStream_eq_symbolStream (vs : List Nat) :
    fullStream vs = symbolStream (105 :: (vs ++ [checksumOf vs]) ++ [106]) := by
  simp [fullStream, symbolSequence, symbolStream]

theorem fullStream_head (vs : List Nat) : (fullStream vs)[0]? = some true := symbolStream_head _

theorem fullStream_last (vs : List Nat) : (fullStream vs)[(fullStream vs).length - 1]? = some true := by
  rw [← List.getLast?_eq_getElem?, fullStream_eq_symbolStream, symbolStream_last]

/-- The stream that drives the packer is the full bit stream S of the input. -/
theorem symbolStream_encodedSymbols (s : State) : symbolStream (encodedSymbols s) = fullStream (inputSymbols s) := by
  rw [fullStream_eq_symbolStream, ← encodeSymbols_checksum]
  rfl

/-- A checksum symbol value lies below the VALID bit of CHKSUM, so setting that bit adds it (R28). -/
theorem validBit_or_checksum {chk : Nat} (h : chk ≤ 102) :
    0x80000000#32 ||| numberWord chk = 0x80000000#32 + BitVec.ofNat 32 chk := by
  have hor : 0x80000000 ||| chk = 0x80000000 + chk :=
    (Nat.two_pow_add_eq_or_of_lt (i := 31) (by omega) 1).symm
  have hbit : (0x80000000#32).toNat = 0x80000000 := rfl
  refine BitVec.eq_of_toNat_eq ?_
  rw [BitVec.toNat_or, BitVec.toNat_add, numberWord_toNat (by omega), hbit, hor, BitVec.toNat_ofNat]
  omega

end Sys2Proof.Machine
end

section
/-! The two endings of ENCODE, said of the input: a valid input that fits is committed, any other one fails (R160,
R214); and what the barcode of a commit is. -/

namespace Sys2Proof.Machine

variable {s : State}

theorem encodeEffect_of_valid (hlen : s.inlen.toNat ≤ s.params.maxInputLen) (hvalid : ValidInput s) :
    encodeEffect s = commitEncode (encodeSymbols s).1 (encodeSymbols s).2 s := by
  have hover : ¬ inputOverrun s = true := by rw [inputOverrun_iff]; omega
  simp [encodeEffect, hover, (inputValid_iff s).2 hvalid]

theorem encodeEffect_of_failing (h : s.params.maxInputLen < s.inlen.toNat ∨ ¬ ValidInput s) :
    encodeEffect s =
      failEncode (if s.params.maxInputLen < s.inlen.toNat then .inputOverrun else .invalidInput) s := by
  by_cases hover : s.params.maxInputLen < s.inlen.toNat
  · simp [encodeEffect, (inputOverrun_iff s).2 hover, hover]
  · have hinvalid : ¬ inputValid s = true := fun hv => h.elim hover (· ((inputValid_iff s).1 hv))
    simp [encodeEffect, inputOverrun_iff, hover, hinvalid]

@[simp] theorem failEncode_result (code : Result) (s : State) : (failEncode code s).status.result = code := rfl

/-- RESULT tells from TOT whether the stream was cut off (R166). -/
theorem commitEncode_result {S : List Bool} {p : Packer} {b : Bool} (hp : p.Holds s.params.capacity S b) (chk : Nat) :
    (commitEncode p chk s).status.result = if S.length ≤ s.params.capacity then .ok else .truncated := by
  rw [← hp.tot, ← ite_not, if_congr Nat.not_le rfl rfl]
  rfl

theorem exec_encode (v : Byte) (s : State) : exec (.encode v) s = .next ((encodeEffect s).setReturned none) := rfl

/-- Settles O38: the packer holds the first CAPACITY modules of the full stream and has counted all of them, and the
checksum symbol has its closed form. -/
theorem encodeStoresBarcodeOfInput : Obligations.EncodeStoresBarcodeOfInput := by
  intro s v hlegal hlen hvalid
  have hp := encodeSymbols_holds hvalid
  have hstream := encodedStream_length hvalid
  rw [symbolStream_encodedSymbols] at hp hstream
  have hbar := (commitEncode_barLength hlegal hp.ok (encodeSymbols s).2).trans hp.wp
  rw [hstream, Nat.min_comm] at hbar
  refine ⟨_, exec_encode v s, hstream, hp.tot, ?_⟩
  rw [encodeEffect_of_valid hlen hvalid]
  refine ⟨hbar, fun i hi => commitEncode_barCell hp (encodeSymbols s).2 ?_, ?_, ?_⟩
  · exact (hi.trans_eq hbar).trans_le (Nat.min_le_right _ _)
  · rw [← encodeSymbols_checksum]
    exact validBit_or_checksum (encodeSymbols_checksum_le s)
  · rw [State.setReturned_status, commitEncode_result hp, hstream]

/-- Settles O42: a committed barcode starts with START-C and, when it is whole, ends with STOP; a failing input leaves
none and a RESULT that is neither OK nor TRUNCATED. -/
theorem barcodeStartsAndEndsOnBar : Obligations.BarcodeStartsAndEndsOnBar := by
  intro s t v hlegal h
  rw [exec_params h]
  by_cases hin : s.inlen.toNat ≤ s.params.maxInputLen ∧ ValidInput s
  · obtain ⟨hlen, hvalid⟩ := hin
    obtain ⟨t', ht', hstream, -, hbar, hcells, -, hresult⟩ := encodeStoresBarcodeOfInput s v hlegal hlen hvalid
    obtain rfl : t' = t := by simpa [ht'] using h
    obtain ⟨hcap, -, -, -⟩ := hlegal
    have hpos : 1 ≤ t'.barLength.toNat := by omega
    have hfirst : t'.barCell 0 = some true := (hcells 0 hpos).trans (fullStream_head _)
    refine ⟨by omega, fun _ _ => ⟨hpos, hbar, hfirst⟩, fun _ => ⟨hpos, hfirst⟩, fun hwhole => ?_,
      fun hinvalid => absurd hvalid hinvalid⟩
    have hfits : 35 + 11 * (s.inlen.toNat / 2) ≤ s.params.capacity := by
      by_contra hcut
      simp [WholeBarcode, hresult, hcut] at hwhole
    rw [Nat.min_eq_left hfits, ← hstream] at hbar
    rw [hcells _ (by omega), hbar, fullStream_last]
  · have hfails : s.params.maxInputLen < s.inlen.toNat ∨ ¬ ValidInput s := by
      rw [← Nat.not_le]
      exact not_and_or.1 hin
    obtain rfl := State.acknowledge_next h
    rw [encodeEffect_of_failing hfails]
    refine ⟨Nat.zero_le _, fun hlen hvalid => absurd ⟨hlen, hvalid⟩ hin, ?_, ?_, fun _ => rfl⟩
    · split <;> simp
    · split <;> simp [WholeBarcode]

end Sys2Proof.Machine
end

section
/-! The checksum of R145 from any packer: the sequencer's accumulator does not depend on what was packed before. -/

namespace Sys2Proof.Machine

/-- Settles O36: the loop adds the positional sum of its pairs to 105 modulo 103, whatever the packer holds, and the
bound is that of the checksum symbol value ENCODE computes. -/
theorem checksumHasClosedForm : Obligations.ChecksumHasClosedForm := by
  intro s p
  refine ⟨?_, (encodeSymbols_checksum s).symm.trans_le (encodeSymbols_checksum_le s)⟩
  rw [inputSymbols_eq_map, List.range_eq_range']
  exact encodePairs_acc s (s.inlen.toNat / 2) 0 ⟨p, checksumInit⟩

end Sys2Proof.Machine
end

section
/-! What ENCODE leaves, whatever state it is given: an empty barcode when the input fails, the same barcode for the
same input, and the host's input and sticky bits as they were. -/

namespace Sys2Proof.Machine

variable {s t : State}

/-- With LENGTH 0 every index is past LENGTH, so every BAR read returns 0 (R185). -/
theorem exec_rdBar_of_empty (h : s.barLength = 0#13) (k : Index) (x : Word) :
    ∃ t, exec (.rdBar k x) s = .next t ∧ t.returned = some 0#32 := by
  rw [exec_rdBar_past_length (by simp [h])]
  exact State.respond_returns _ _

/-- Settles O39: a failing input makes ENCODE fail with the code of R161's order, which leaves LENGTH 0, so every BAR
read is out of range. -/
theorem failedEncodeEmptiesBarcode : Obligations.FailedEncodeEmptiesBarcode := by
  intro s v hfails
  refine ⟨_, exec_encode v s, ?_⟩
  rw [encodeEffect_of_failing hfails]
  exact ⟨rfl, rfl, rfl, exec_rdBar_of_empty rfl⟩

/-- Of the state it starts from, the barcode of a failed ENCODE keeps the parameters only (R167). -/
theorem failEncode_sameBarcode (hp : t.params = s.params) (code : Result) :
    SameBarcode (failEncode code s) (failEncode code t) :=
  ⟨hp, rfl, rfl, rfl, rfl⟩

/-- Of the state it starts from, a committed barcode keeps the parameters only; RESULT compares TOT with CAPACITY (R165,
R166). -/
theorem commitEncode_sameBarcode (hp : t.params = s.params) (p : Packer) (chk : Nat) :
    SameBarcode (commitEncode p chk s) (commitEncode p chk t) where
  params := hp
  result := by simp [commitEncode, hp]
  barLength := rfl
  bar := rfl
  chksum := rfl

theorem SameBarcode.barCell (h : SameBarcode s t) (i : Nat) : t.barCell i = s.barCell i :=
  congrArg (·[i]?) h.bar

/-- The same parameters, INLEN and input bytes leave the same barcode, RESULT and CHKSUM (R169). -/
theorem encodeEffect_sameBarcode (hp : t.params = s.params) (hn : t.inlen = s.inlen)
    (hb : ∀ k, k < s.inlen.toNat → t.inbufByte k = s.inbufByte k) :
    SameBarcode (encodeEffect s) (encodeEffect t) := by
  rw [encodeEffect_of_sameInput hp hn hb, encodeEffect]
  split
  · exact failEncode_sameBarcode hp _
  · split
    · exact failEncode_sameBarcode hp _
    · exact commitEncode_sameBarcode hp _ _

/-- Settles O41: both states take the same ending with the same symbols, and each ending's barcode is made of the
symbols and the parameters. -/
theorem encodeDependsOnInputOnly : Obligations.EncodeDependsOnInputOnly := by
  intro s s' t t' v v' hp hn hb ht ht'
  obtain rfl := State.acknowledge_next ht
  obtain rfl := State.acknowledge_next ht'
  have hsame := encodeEffect_sameBarcode hp hn hb
  exact ⟨hsame.barLength, hsame.result, hsame.chksum, fun i _ => hsame.barCell i⟩

/-- Settles O40: none of ENCODE's three endings writes these fields, and with INBUF as before each of its cells is. -/
theorem encodeLeavesInputAndStickyBits : Obligations.EncodeLeavesInputAndStickyBits := by
  intro s v
  obtain ⟨hparams, hinlen, hlkup, hinbuf, hresets, hpending, hsticky⟩ := encodeEffect_frame s
  exact ⟨_, exec_encode v s, rfl, fun k => congrArg (Memory.read · k) hinbuf, hinlen, hlkup, hsticky, hparams,
    hresets, hpending⟩

end Sys2Proof.Machine
end

section
/-! The host's register accesses: the words that reads return, bit by bit and as numbers, and what each kind of access
leaves unchanged (44_host_access.md). -/

namespace Sys2Proof.Machine

variable {s t : State}

/-! How an access ends. -/

theorem State.respond_untouched (s : State) (w : Word) :
    ∃ t, s.respond w = .next t ∧ t.returned = some w ∧ Untouched s t :=
  ⟨_, rfl, rfl, untouched_setReturned _ s⟩

theorem State.raise_acknowledge_recordsOnly (s : State) (c : Condition) :
    ∃ t, (s.raise c).acknowledge = .next t ∧ t.returned = none ∧ RecordsOnly c s t :=
  ⟨_, rfl, rfl, recordsOnly_raise c none s⟩

theorem sameButStatus_setStatus (st : Status) (r : Option Word) (s : State) :
    SameButStatus s ((s.setStatus st).setReturned r) :=
  ⟨rfl, rfl, rfl, rfl, rfl, fun _ => rfl, fun _ => rfl, rfl, rfl⟩

/-! The STATUS word, one bit at a time (R180). -/

/-- A flag placed at bit `n` of a word is that bit and no other. -/
theorem getLsbD_bitWord_shiftLeft (b : Bool) {n : Nat} (hn : n < 32) (i : Nat) :
    (bitWord b <<< n).getLsbD i = (decide (i = n) && b) := by
  rcases Nat.lt_trichotomy i n with hlt | rfl | hgt
  · simp [hlt, hlt.ne]
  · simp [bitWord, hn]
  · simp [bitWord, hgt.ne', show i - n ≠ 0 by omega]

theorem statusWord_getLsbD (st : Status) (i : Nat) :
    (statusWord st).getLsbD i =
      (decide (i = 10) && st.accErr || decide (i = 9) && st.range || decide (i = 8) && st.badCmd ||
        (resultCode st.result).getLsbD i) := by
  have hresult : ((resultCode st.result).setWidth 32).getLsbD i = (resultCode st.result).getLsbD i := by
    rw [BitVec.getLsbD_setWidth, Bool.and_eq_right_iff_imp, decide_eq_true_eq]
    exact fun h => (BitVec.lt_of_getLsbD h).trans (by decide)
  simp only [statusWord, BitVec.getLsbD_or, getLsbD_bitWord_shiftLeft _ (show 10 < 32 by decide),
    getLsbD_bitWord_shiftLeft _ (show 9 < 32 by decide), getLsbD_bitWord_shiftLeft _ (show 8 < 32 by decide), hresult]

/-- Each sticky bit stands in the bit that clears it (R23, R180). -/
theorem statusWord_conditionBit (st : Status) (c : Condition) :
    (statusWord st).getLsbD (conditionBit c) = st.sticky c := by
  rw [statusWord_getLsbD, BitVec.getLsbD_of_ge _ _ (by cases c <;> decide)]
  cases c <;> simp [conditionBit, Status.sticky]

/-- Bits 2:0 of STATUS are RESULT. -/
theorem statusWord_result (st : Status) : (statusWord st).extractLsb' 0 3 = resultCode st.result := by
  ext i hi
  rw [BitVec.getElem_extractLsb', statusWord_getLsbD, ← BitVec.getLsbD_eq_getElem]
  simp [show i ≠ 10 by omega, show i ≠ 9 by omega, show i ≠ 8 by omega]

/-- A field of STATUS above RESULT that holds none of bits 8 to 10 reads 0. -/
theorem statusWord_unused (st : Status) {start len : Nat} (hstart : 3 ≤ start) (hend : start + len ≤ 8 ∨ 11 ≤ start) :
    (statusWord st).extractLsb' start len = 0#len := by
  ext i hi
  rw [BitVec.getElem_extractLsb', statusWord_getLsbD, BitVec.getLsbD_of_ge _ _ (by omega)]
  simp [show start + i ≠ 10 by omega, show start + i ≠ 9 by omega, show start + i ≠ 8 by omega]

/-- Settles O20: the word has a sticky bit in its one place and RESULT in bits 2:0, and the write clears bit by bit. -/
theorem statusReadAndClear : Obligations.StatusReadAndClear := by
  intro s d
  exact ⟨decodeOfEncodeGivesInstructionBack (.rdStatus d) rfl, decodeOfEncodeGivesInstructionBack (.wrStatus d) rfl,
    ⟨_, _, rfl, rfl, untouched_setReturned _ s, statusWord_result s.status,
      statusWord_unused _ (by decide) (.inl (by decide)), statusWord_conditionBit _ .badCmd,
      statusWord_conditionBit _ .range, statusWord_conditionBit _ .accErr,
      statusWord_unused _ (by decide) (.inr (by decide))⟩,
    ⟨_, rfl, rfl, sameButStatus_setStatus _ none s, rfl, rfl, rfl, rfl⟩⟩

/-! The reads and writes of the other registers (R181, R182, R184, R187, R188, R193, R194). -/

theorem inlenOperand_toNat (d : Word) : (inlenOperand d).toNat = d.toNat % 65536 := by
  simp [inlenOperand, BitVec.extractLsb'_toNat]

theorem exec_rdBarCount_of_empty (h : s.barLength = 0#13) (x : Word) :
    ∃ t, exec (.rdBarCount x) s = .next t ∧ t.returned = some 0#32 :=
  ⟨_, rfl, congrArg (some ∘ BitVec.setWidth 32) h⟩

/-- An ENCODE whose RESULT says that it failed has emptied the barcode: a commit leaves OK or TRUNCATED (R167). -/
theorem exec_encode_failed {v : Byte} (h : exec (.encode v) s = .next t)
    (hfailed : t.status.result = .invalidInput ∨ t.status.result = .inputOverrun) :
    t.barLength = 0#13 ∧ t.chksum = 0#32 := by
  obtain rfl := State.acknowledge_next h
  rw [State.setReturned_status] at hfailed
  rcases encodeEffect_cases s with ⟨-, heffect⟩ | ⟨-, -, heffect⟩ | ⟨-, -, heffect⟩ <;> rw [heffect] at hfailed ⊢
  · exact ⟨rfl, rfl⟩
  · exact ⟨rfl, rfl⟩
  · by_cases hcut : s.params.capacity < (encodeSymbols s).1.tot <;> simp [commitEncode, hcut] at hfailed

/-- Settles O21: the word is LENGTH, which the invariant bounds, and reset and a failed ENCODE leave LENGTH 0. -/
theorem barCountReadsLength : Obligations.BarCountReadsLength := by
  intro s x
  have hlength : (s.barLength.setWidth 32).toNat = s.barLength.toNat := BitVec.toNat_setWidth_of_le (by decide)
  exact ⟨decodeOfEncodeGivesInstructionBack (.rdBarCount x) rfl,
    ⟨_, _, rfl, rfl, hlength, untouched_setReturned _ s, fun hs => hlength.trans_le hs.length_le⟩,
    fun p => exec_rdBarCount_of_empty rfl x,
    fun v u hu hfailed => exec_rdBarCount_of_empty (exec_encode_failed hu hfailed).1 x⟩

/-- Settles O22: the write takes the low half of the data into INLEN alone, and a read widens INLEN to a word. -/
theorem inlenReadAndWrite : Obligations.InlenReadAndWrite := by
  intro s d x
  have hread (n : BitVec 16) : (n.setWidth 32).toNat = n.toNat := BitVec.toNat_setWidth_of_le (by decide)
  exact ⟨decodeOfEncodeGivesInstructionBack (.rdInlen d) rfl, decodeOfEncodeGivesInstructionBack (.wrInlen d) rfl,
    ⟨_, _, rfl, rfl, hread s.inlen, untouched_setReturned _ s⟩,
    ⟨_, rfl, rfl, inlenOperand_toNat d, rfl, rfl, rfl, rfl, rfl, fun _ => rfl, fun _ => rfl, rfl, rfl,
      _, _, rfl, rfl, (hread _).trans (inlenOperand_toNat d)⟩⟩

/-- Settles O23: each read returns its register or parameter, a legal parameter fits in the word, and a LOOKUP miss and
a failed ENCODE leave 0. -/
theorem registerReadsReturnRegisters : Obligations.RegisterReadsReturnRegisters := by
  intro s x hlegal
  obtain ⟨-, hcap, -, hmax⟩ := hlegal
  refine ⟨decodeOfEncodeGivesInstructionBack (.rdCmd x) rfl, decodeOfEncodeGivesInstructionBack (.rdLkup x) rfl,
    decodeOfEncodeGivesInstructionBack (.rdChksum x) rfl, decodeOfEncodeGivesInstructionBack (.rdCap x) rfl,
    decodeOfEncodeGivesInstructionBack (.rdMaxin x) rfl, s.respond_untouched _, s.respond_untouched _,
    s.respond_untouched _, ⟨_, _, rfl, rfl, numberWord_toNat hcap, untouched_setReturned _ s⟩,
    ⟨_, _, rfl, rfl, numberWord_toNat hmax, untouched_setReturned _ s⟩, fun p => ⟨rfl, rfl⟩, fun v t hmiss h => ?_,
    fun v t h hfailed => (exec_encode_failed h hfailed).2⟩
  obtain rfl := State.acknowledge_next h
  exact lkupWord_lookup_miss hmiss

/-- Settles O29: the mask of NOP's row leaves V out of the comparison, and NOP only ends the write. -/
theorem nopChangesNothing : Obligations.NopChangesNothing := by
  intro s d v
  refine ⟨fun hop hlow hhigh => ?_, _, rfl, rfl, untouched_setReturned none s⟩
  have hnop : d &&& 0xFFFF00FF#32 = 0x00000000#32 := (masked_eq_iff d 0#4).2 ⟨hop, hlow, hhigh⟩
  exact (decode_transaction ..).trans (if_pos hnop)

end Sys2Proof.Machine
end

section
/-! The host's window accesses on both sides of their range checks, and the accesses that record ACCERR
(44_host_access.md). -/

namespace Sys2Proof.Machine

theorem inbufOperand_eq_ofNat (d : Word) : inbufOperand d = BitVec.ofNat 8 (d.toNat % 256) := by
  rw [← inbufOperand_toNat, BitVec.ofNat_toNat, BitVec.setWidth_eq]

theorem bitWord_toNat (b : Bool) : (bitWord b).toNat = if b = true then 1 else 0 := by cases b <;> rfl

/-- Every BAR cell below LENGTH holds a value (R31, R36). -/
theorem State.Inv.exists_barCell {s : State} (hs : s.Inv) {i : Nat} (hi : i < s.barLength.toNat) :
    ∃ b, s.barCell i = some b :=
  ⟨_, List.getElem?_eq_getElem (hi.trans_eq hs.bar_cells.symm)⟩

/-- Settles O24: in range, the write puts the low byte in the cell of its index and keeps every other; out of range, it
records RANGE. -/
theorem inbufWriteStoresOneByte : Obligations.InbufWriteStoresOneByte := by
  intro s k d
  refine ⟨decodeOfEncodeGivesInstructionBack (.wrInbuf k d) rfl, ?_⟩
  rw [exec_wrInbuf]
  by_cases hk : k.toNat < s.params.maxInputLen
  · simp only [if_pos hk]
    refine ⟨_, rfl, rfl, ?_, fun j hj => s.inbufCell_writeInbuf_other _ hj, rfl, rfl, rfl, rfl, rfl, rfl,
      fun _ => rfl, rfl, rfl⟩
    rw [← inbufOperand_eq_ofNat]
    exact s.inbufCell_writeInbuf_same _ _
  · simp only [if_neg hk]
    exact s.raise_acknowledge_recordsOnly .range

/-- Settles O25: in range, the read returns one byte, the cell's where it holds one; out of range, it records RANGE. -/
theorem inbufReadReturnsByte : Obligations.InbufReadReturnsByte := by
  intro s k x
  refine ⟨decodeOfEncodeGivesInstructionBack (.rdInbuf k x) rfl, ?_⟩
  rw [exec_rdInbuf]
  by_cases hk : k.toNat < s.params.maxInputLen
  · simp only [if_pos hk]
    refine ⟨_, _, rfl, rfl, untouched_setReturned _ s, ?_, fun b hb => ?_⟩
    · rw [byteWord_toNat]
      exact (s.inbufByte k.toNat).isLt
    · rw [byteWord_toNat, State.inbufByte_of_cell hb]
  · simp only [if_neg hk]
    exact ⟨_, _, rfl, rfl, recordsOnly_raise .range _ s, rfl⟩

/-- Settles O28: past LENGTH the read records RANGE and responds with 0. -/
theorem barReadPastLengthReturnsZero : Obligations.BarReadPastLengthReturnsZero := by
  intro s i x hi
  rw [exec_rdBar_past_length hi]
  exact ⟨_, rfl, rfl, recordsOnly_raise .range _ s⟩

/-- Settles O27: below LENGTH the invariant gives the cell a value, which the read returns; past it the read is O28's. -/
theorem barReadReturnsModule : Obligations.BarReadReturnsModule := by
  intro s i x hs
  refine ⟨decodeOfEncodeGivesInstructionBack (.rdBar i x) rfl, ?_⟩
  by_cases hi : i.toNat < s.barLength.toNat
  · obtain ⟨b, hb⟩ := hs.exists_barCell hi
    rw [exec_rdBar, if_pos hi, State.barBit_of_cell hb]
    simp only [if_pos hi]
    exact ⟨_, _, rfl, rfl, untouched_setReturned _ s, b, hb, bitWord_toNat b⟩
  · obtain ⟨t, ht, hreturned, hrecords⟩ := barReadPastLengthReturnsZero s i x (Nat.le_of_not_lt hi)
    simp only [if_neg hi]
    exact ⟨t, _, ht, hreturned, hrecords, rfl⟩

/-- Settles O31: R76's addresses are the well-formed RESERVED_ACCESS instructions, so the round trip decodes them; either
direction records ACCERR, and serving the access again changes nothing. -/
theorem reservedAddressSetsAccerr : Obligations.ReservedAddressSetsAccerr := by
  intro s rw a d hreserved
  have hwf : (Instr.reservedAccess rw a d).wf = true := by simpa [Instr.wf, isReservedAddr] using hreserved
  refine ⟨decodeOfEncodeGivesInstructionBack (.reservedAccess rw a d) hwf, ?_⟩
  cases rw with
  | read => exact ⟨_, rfl, recordsOnly_raise .accErr _ s, fun _ => rfl, nofun, exec_again rfl⟩
  | write => exact ⟨_, rfl, recordsOnly_raise .accErr _ s, nofun, fun _ => rfl, exec_again rfl⟩

/-- Settles O32: each write decodes to its own row by the round trip, and each row's one effect is to record ACCERR. -/
theorem readOnlyWritesSetAccerr : Obligations.ReadOnlyWritesSetAccerr := by
  intro s i g d
  exact ⟨decodeOfEncodeGivesInstructionBack (.wrRoBarCount d) rfl,
    decodeOfEncodeGivesInstructionBack (.wrRoConfig g d) rfl, decodeOfEncodeGivesInstructionBack (.wrRoBar i d) rfl,
    s.raise_acknowledge_recordsOnly .accErr, s.raise_acknowledge_recordsOnly .accErr,
    s.raise_acknowledge_recordsOnly .accErr⟩

end Sys2Proof.Machine
end

section
/-! How errors are recorded (60_exceptions.md): the one RESULT an ENCODE writes, the one sticky bit a transaction may
set, and the state kept while no event is issued. -/

namespace Sys2Proof.Machine

variable {i : Instr} {s t : State} {c : Condition}

/-! RESULT after an ENCODE (R214). -/

theorem encodeEffect_result_of_failing (h : s.params.maxInputLen < s.inlen.toNat ∨ ¬ ValidInput s) :
    (encodeEffect s).status.result =
      if s.params.maxInputLen < s.inlen.toNat then .inputOverrun else .invalidInput := by
  rw [encodeEffect_of_failing h, failEncode_result]

/-- TOT of a valid input is the 35 + 11·m modules of its stream (R128, R166). -/
theorem encodeEffect_result_of_valid (hlen : s.inlen.toNat ≤ s.params.maxInputLen) (hvalid : ValidInput s) :
    (encodeEffect s).status.result =
      if 35 + 11 * (s.inlen.toNat / 2) ≤ s.params.capacity then .ok else .truncated := by
  rw [encodeEffect_of_valid hlen hvalid, commitEncode_result (encodeSymbols_holds hvalid),
    encodedStream_length hvalid]

/-- NONE is set by reset only (R24). -/
theorem encodeEffect_result_ne_none (s : State) : (encodeEffect s).status.result ≠ .none := by
  by_cases hin : s.inlen.toNat ≤ s.params.maxInputLen ∧ ValidInput s
  · obtain ⟨hlen, hvalid⟩ := hin
    rw [encodeEffect_result_of_valid hlen hvalid]
    split <;> simp
  · rw [not_and_or, Nat.not_le] at hin
    rw [encodeEffect_result_of_failing hin]
    split <;> simp

/-- Settles O37: an overlong or invalid input fails with its code, the overlong one first, and RESULT of a valid input
compares its stream with CAPACITY. -/
theorem encodeResultPriority : Obligations.EncodeResultPriority := by
  intro s v
  refine ⟨_, exec_encode v s, fun hover => ?_, fun hlen hinvalid => ?_, fun hlen hvalid => ⟨fun hcut => ?_,
    fun hfits => ?_⟩⟩ <;> rw [State.setReturned_status]
  · rw [encodeEffect_result_of_failing (.inl hover), if_pos hover]
  · rw [encodeEffect_result_of_failing (.inr hinvalid), if_neg (Nat.not_lt.2 hlen)]
  · rw [encodeEffect_result_of_valid hlen hvalid, if_neg (Nat.not_le.2 hcut)]
  · rw [encodeEffect_result_of_valid hlen hvalid, if_pos hfits]

/-! The sticky bits (R211, R215). -/

/-- The kinds of transaction that may record each condition (R211). -/
def Condition.RecordedBy (c : Condition) (i : Instr) : Prop :=
  match c with
  | .badCmd => ∃ d, i = .cmdReserved d
  | .range => (∃ k x, i = .rdInbuf k x) ∨ (∃ k d, i = .wrInbuf k d) ∨ (∃ k x, i = .rdBar k x)
  | .accErr => (∃ k d, i = .wrRoBar k d) ∨ (∃ d, i = .wrRoBarCount d) ∨ (∃ g d, i = .wrRoConfig g d) ∨
      (∃ rw a d, i = .reservedAccess rw a d)

/-- A sticky bit becomes set only where a transaction of its kinds records it, and then that is the whole effect. -/
theorem exec_newly_set (h : exec i s = .next t) (hclear : s.status.sticky c = false)
    (hset : t.status.sticky c = true) : c.RecordedBy i ∧ ∃ r, t = (s.raise c).setReturned r := by
  rcases exec_cases h with ⟨r, rfl⟩ | ⟨c', r, rfl, hkind⟩ | ⟨v, -, rfl⟩ | ⟨v, -, rfl⟩ | ⟨d, -, rfl⟩ | ⟨d, -, rfl⟩ |
    ⟨k, d, -, -, rfl⟩
  case inr.inl => -- a recorded condition
    obtain rfl : c = c' := by simpa [Status.sticky_raise, hclear] using hset
    exact ⟨hkind, r, rfl⟩
  all_goals simp [encodeEffect_frame, Status.sticky_clearSticky, hclear] at hset

/-- Settles O16: a newly set bit is the one condition recorded, so a second one is the same; only a STATUS write clears
a bit; and no ending of ENCODE reads RESULT or leaves NONE. -/
theorem oneStickyBitPerTransaction : Obligations.OneStickyBitPerTransaction := by
  refine fun i s t h => ⟨fun c hclear hset => ?_, fun c c' hclear hset hclear' hset' => ?_, fun c hi hset => ?_,
    fun v hv => ?_⟩
  · obtain ⟨hkind, -⟩ := exec_newly_set h hclear hset
    exact hkind
  · obtain ⟨-, r, rfl⟩ := exec_newly_set h hclear hset
    have hsame : c' = c := by simpa [Status.sticky_raise, hclear'] using hset'
    exact hsame.symm
  · rcases exec_sticky_or_wrStatus h hset with hstays | ⟨d, hd, -⟩
    · exact hstays
    · exact absurd hd (hi d)
  · subst hv
    obtain rfl := State.acknowledge_next h
    refine ⟨encodeEffect_result_ne_none s, fun r => ?_⟩
    rw [exec_encode, encodeEffect_setResult]

/-! No event issued (R223). -/

theorem takeEvent_of_no_pending (h : s.pending = []) : s.takeEvent = none := by
  simp [State.takeEvent, h]

/-- Settles O9: with nothing to take off the queue, a step answers the state itself. -/
theorem idleStepKeepsState : Obligations.IdleStepKeepsState := by
  intro s h
  unfold step
  rw [takeEvent_of_no_pending h]

end Sys2Proof.Machine
end

section
/-! The reset input (R240 to R242), and that every transaction and every step completes (R248). -/

namespace Sys2Proof.Machine

variable {s : State}

/-- The reset input comes off the queue and puts the core in the reset state, whatever transaction it cancels (R242). -/
theorem step_of_reset {e : HostEvent} {rest : List HostEvent} (h : s.pending = e :: rest)
    (he : e = .reset ∨ ∃ x, e = .resetDuring x) : step s = .next (s.setPending rest).assertReset := by
  unfold step
  rw [takeEvent_of_pending h]
  rcases he with rfl | ⟨x, rfl⟩ <;> rfl

theorem State.assertReset_cleanStatus (s : State) : CleanStatus s.assertReset := fun c => by cases c <;> rfl

/-- Settles O7: either kind of reset input leaves the registers of R240 and the parameters, and the reads return them. -/
theorem resetInputLeadsToResetState : Obligations.ResetInputLeadsToResetState := fun _ _ _ h he =>
  ⟨_, step_of_reset h he, statusWord_reset, rfl, State.assertReset_cleanStatus _, rfl, rfl, rfl, rfl, rfl, rfl,
    State.respond_returns _ _, State.respond_returns _ _, exec_rdBarCount_of_empty rfl _⟩

/-- Settles O8: the reset state's lists of cells are empty, and only the reset input itself is off the queue. -/
theorem resetInputEmptiesInbufAndKeepsQueue : Obligations.ResetInputEmptiesInbufAndKeepsQueue := fun _ _ _ h he =>
  ⟨_, step_of_reset h he, Memory.read_nil, fun _ => List.getElem?_nil, rfl, rfl⟩

/-- No arm of exec faults or refuses (R210): the windows' arms answer on both sides of their range checks. -/
theorem exec_completes (i : Instr) (s : State) : ∃ t, exec i s = .next t := by
  cases i with
  | rdInbuf k x =>
    rw [exec_rdInbuf]
    split <;> exact ⟨_, rfl⟩
  | wrInbuf k d =>
    rw [exec_wrInbuf]
    split <;> exact ⟨_, rfl⟩
  | rdBar k x =>
    rw [exec_rdBar]
    split <;> exact ⟨_, rfl⟩
  | reservedAccess rw a d => cases rw <;> exact ⟨_, rfl⟩
  | _ => exact ⟨_, rfl⟩

theorem step_completes (s : State) : ∃ t, step s = .next t := by
  cases h : s.pending with
  | nil => exact ⟨s, idleStepKeepsState s h⟩
  | cons e rest =>
    cases e with
    | transaction x =>
      rw [stepServesOldestTransaction s x rest h]
      exact exec_completes _ _
    | reset => exact ⟨_, step_of_reset h (.inl rfl)⟩
    | resetDuring x => exact ⟨_, step_of_reset h (.inr ⟨x, rfl⟩)⟩

/-- TOT at the end of a valid ENCODE counts the 35 + 11·m modules of its stream (R127, R128). -/
theorem encodeSymbols_tot (hvalid : ValidInput s) : (encodeSymbols s).1.tot = 35 + 11 * (s.inlen.toNat / 2) :=
  (encodeSymbols_holds hvalid).tot.trans (encodedStream_length hvalid)

/-- Settles O11: exec and step answer a next state in every case, and MAX_INPUT_LEN ≤ 4096 leaves at most 2048 data
symbols. -/
theorem everyTransactionCompletes : Obligations.EveryTransactionCompletes := by
  refine ⟨exec_completes, step_completes, fun s hlegal hlen hvalid => ?_⟩
  obtain ⟨-, -, -, hmax⟩ := hlegal
  rw [encodeSymbols_tot hvalid]
  omega

end Sys2Proof.Machine
end

section
/-! A host that keeps its duty (R191, R241, R246) reads written cells only, so the reset counter, which picks the free
contents of unwritten ones, does not matter to it; and it records no condition. -/

namespace Sys2Proof.Machine

variable {i : Instr} {s t : State}

/-- The same state in another reset epoch: other free contents of the cells that hold no value (log 5, log 6). -/
def State.setResets (r : Nat) (s : State) : State := { s with resets := r }

/-- A written INBUF cell reads the same in every reset epoch. -/
theorem State.inbufByte_setResets {k : Nat} (h : (s.inbufCell k).isSome = true) (r : Nat) :
    (s.setResets r).inbufByte k = s.inbufByte k := by
  obtain ⟨b, hb⟩ := Option.isSome_iff_exists.1 h
  have hb' : (s.setResets r).inbufCell k = some b := hb
  rw [State.inbufByte_of_cell hb, State.inbufByte_of_cell hb']

/-- A BAR cell below LENGTH holds a value, so it reads the same in every reset epoch. -/
theorem State.Inv.barBit_setResets (hs : s.Inv) {k : Nat} (h : k < s.barLength.toNat) (r : Nat) :
    (s.setResets r).barBit k = s.barBit k := by
  obtain ⟨b, hb⟩ := hs.exists_barCell h
  have hb' : (s.setResets r).barCell k = some b := hb
  rw [State.barBit_of_cell hb, State.barBit_of_cell hb']

/-- An ENCODE of a written input takes the same ending with the same symbols in every reset epoch. -/
theorem encodeEffect_setResets (h : ∀ k, k < s.inlen.toNat → (s.inbufCell k).isSome = true) (r : Nat) :
    encodeEffect (s.setResets r) = (encodeEffect s).setResets r := by
  have hinput : ∀ k, k < s.inlen.toNat → (s.setResets r).inbufByte k = s.inbufByte k := fun k hk =>
    State.inbufByte_setResets (h k hk) r
  rw [encodeEffect_of_sameInput (s := s) (t := s.setResets r) rfl rfl hinput, encodeEffect]
  split
  · rfl
  · split <;> rfl

/-! A dutiful window access passes its range check (R183, R185, R186). -/

theorem exec_rdInbuf_of_duty {k : Index} {x : Word} (h : HostDuty (.rdInbuf k x) s) :
    exec (.rdInbuf k x) s = s.respond (byteWord (s.inbufByte (windowIndex k))) :=
  (exec_rdInbuf k x s).trans (if_pos h.1)

theorem exec_wrInbuf_of_duty {k : Index} {d : Word} (h : HostDuty (.wrInbuf k d) s) :
    exec (.wrInbuf k d) s = (s.writeInbuf (windowIndex k) (inbufOperand d)).acknowledge :=
  (exec_wrInbuf k d s).trans (if_pos h)

theorem exec_rdBar_of_duty {k : Index} {x : Word} (h : HostDuty (.rdBar k x) s) :
    exec (.rdBar k x) s = s.respond (bitWord (s.barBit (windowIndex k))) :=
  (exec_rdBar k x s).trans (if_pos h)

/-- A dutiful transaction does the same in every reset epoch: INBUF reads, BAR reads and ENCODE are the only ones that
read cells, and the cells they read hold values. -/
theorem exec_setResets (hs : s.Inv) (hduty : HostDuty i s) (h : exec i s = .next t) (r : Nat) :
    exec i (s.setResets r) = .next (t.setResets r) := by
  cases i with
  | rdInbuf k x =>
    have hcell : (s.inbufCell (windowIndex k)).isSome = true := hduty.2
    obtain rfl := State.respond_next ((exec_rdInbuf_of_duty hduty).symm.trans h)
    rw [exec_rdInbuf_of_duty (s := s.setResets r) hduty, State.inbufByte_setResets hcell]
    rfl
  | rdBar k x =>
    obtain rfl := State.respond_next ((exec_rdBar_of_duty hduty).symm.trans h)
    rw [exec_rdBar_of_duty (s := s.setResets r) hduty, hs.barBit_setResets hduty]
    rfl
  | wrInbuf k d =>
    obtain rfl := State.acknowledge_next ((exec_wrInbuf_of_duty hduty).symm.trans h)
    exact exec_wrInbuf_of_duty (s := s.setResets r) hduty
  | encode v =>
    obtain ⟨-, hcells⟩ := hduty
    obtain rfl := State.acknowledge_next h
    rw [exec_encode, encodeEffect_setResets hcells]
    rfl
  | cmdReserved d | wrRoBarCount d | wrRoConfig g d | wrRoBar k d | reservedAccess rw a d => exact hduty.elim
  | nop v | lookup v | wrStatus d | wrInlen d =>
    obtain rfl := State.acknowledge_next h
    rfl
  | rdCmd x | rdStatus x | rdBarCount x | rdInlen x | rdLkup x | rdChksum x | rdCap x | rdMaxin x =>
    obtain rfl := State.respond_next h
    rfl

/-- A dutiful transaction sets no sticky bit: its window index is in range, and it is none of the kinds that record
BADCMD or ACCERR (R211). -/
theorem HostDuty.sticky_stays_clear (hduty : HostDuty i s) (h : exec i s = .next t) {c : Condition}
    (hclear : s.status.sticky c = false) : t.status.sticky c = false := by
  rw [← Bool.not_eq_true]
  intro hset
  obtain ⟨hkind, -⟩ := exec_newly_set h hclear hset
  cases c with
  | badCmd =>
    obtain ⟨d, rfl⟩ := hkind
    exact hduty
  | accErr => rcases hkind with ⟨k, d, rfl⟩ | ⟨d, rfl⟩ | ⟨g, d, rfl⟩ | ⟨rw, a, d, rfl⟩ <;> exact hduty
  | range =>
    have hkept : t.status = s.status := by
      rcases hkind with ⟨k, x, rfl⟩ | ⟨k, d, rfl⟩ | ⟨k, x, rfl⟩
      · rw [State.respond_next ((exec_rdInbuf_of_duty hduty).symm.trans h), State.setReturned_status]
      · rw [State.acknowledge_next ((exec_wrInbuf_of_duty hduty).symm.trans h), State.setReturned_status,
          State.writeInbuf_status]
      · rw [State.respond_next ((exec_rdBar_of_duty hduty).symm.trans h), State.setReturned_status]
    rw [hkept, hclear] at hset
    exact Bool.false_ne_true hset

/-- Settles O43: the cells that a dutiful transaction reads hold values, which no reset epoch changes, and it records no
condition. -/
theorem dutifulHostNeverSeesUnspecifiedCells : Obligations.DutifulHostNeverSeesUnspecifiedCells :=
  fun _ _ _ r hs hduty h => ⟨exec_setResets hs hduty h r, fun hclean c => hduty.sticky_stays_clear h (hclean c)⟩

end Sys2Proof.Machine
end
